-- ==== Sys2Proof/Word.lean ====
section
/-! DEFINITION. The word type of the block: a byte of a buffer. Every register of the spec has a width of its own
(10_state.md R23, R26) and is a `BitVec` of that width; lengths, offsets and counts are unbounded naturals (00_scope.md R11). -/

namespace Sys2Proof

/-- One byte of a buffer (20_memory.md R60). -/
abbrev Byte := BitVec 8

end Sys2Proof
end

