-- ==== Sys2Proof/Syntax.lean ====
section
/-! DEFINITION. The instructions: one constructor per row of spec/opcode_table.json, in the table's order.
The first fifteen are the CMD rows (30_encoding.md R110, R111): a command takes its operands from named request fields, not from
bits of its code. The other thirty-one are the TLP_BYTE0 rows (30_encoding.md R84): the Fmt/Type byte of a TLP, whose free
bits are the constructor's operands. -/

namespace Sys2Proof

/-- One constructor per row of spec/opcode_table.json. -/
inductive Instr where
  /-- CLASSIFY, code 0x01 (40_header_classify.md R132). -/
  | classify
  /-- DEVID_PACK, code 0x02 (41_device_id.md R141). -/
  | devidPack
  /-- DEVID_UNPACK, code 0x03 (41_device_id.md R142). -/
  | devidUnpack
  /-- DEVID_PARSE, code 0x04 (41_device_id.md R144). -/
  | devidParse
  /-- DEVID_FORMAT, code 0x05 (41_device_id.md R145). -/
  | devidFormat
  /-- MRD_ENCODE, code 0x10 (42_memory_rw.md R164). -/
  | mrdEncode
  /-- MWR_ENCODE, code 0x11 (42_memory_rw.md R165). -/
  | mwrEncode
  /-- MRD_DECODE, code 0x12 (42_memory_rw.md R166). -/
  | mrdDecode
  /-- MWR_DECODE, code 0x13 (42_memory_rw.md R167). -/
  | mwrDecode
  /-- CPL_ENCODE, code 0x20 (43_completion.md R192). -/
  | cplEncode
  /-- CPL_DECODE, code 0x21 (43_completion.md R193). -/
  | cplDecode
  /-- CFG_ENCODE, code 0x30 (44_config.md R210). -/
  | cfgEncode
  /-- CFG_DECODE, code 0x31 (44_config.md R211). -/
  | cfgDecode
  /-- DECODE_ANY, code 0x40 (45_validation.md R241). -/
  | decodeAny
  /-- ILLEGAL_CMD: any CMD value that is no command's code (60_exceptions.md R252). -/
  | illegalCmd (cmd : BitVec 8)
  /-- Byte 0 = 0x00, Memory Read, 32-bit address. -/
  | mrd32
  /-- Byte 0 = 0x20, Memory Read, 64-bit address. -/
  | mrd64
  /-- Byte 0 = 0x01, Memory Read Locked, 32-bit address. -/
  | mrdLk32
  /-- Byte 0 = 0x21, Memory Read Locked, 64-bit address. -/
  | mrdLk64
  /-- Byte 0 = 0x40, Memory Write, 32-bit address. -/
  | mwr32
  /-- Byte 0 = 0x60, Memory Write, 64-bit address. -/
  | mwr64
  /-- Byte 0 = 0x02, I/O Read. -/
  | iord
  /-- Byte 0 = 0x42, I/O Write. -/
  | iowr
  /-- Byte 0 = 0x04, Configuration Read, Type 0. -/
  | cfgRd0
  /-- Byte 0 = 0x44, Configuration Write, Type 0. -/
  | cfgWr0
  /-- Byte 0 = 0x05, Configuration Read, Type 1. -/
  | cfgRd1
  /-- Byte 0 = 0x45, Configuration Write, Type 1. -/
  | cfgWr1
  /-- Byte 0 = 0x1B, deprecated Trusted Configuration Read. -/
  | tcfgRd
  /-- Byte 0 = 0x5B, deprecated Trusted Configuration Write. -/
  | tcfgWr
  /-- Byte 0 = 0x30 to 0x37, Message; `routing` is byte 0 bits 2:0. -/
  | msg (routing : BitVec 3)
  /-- Byte 0 = 0x70 to 0x77, Message with data; `routing` is byte 0 bits 2:0. -/
  | msgD (routing : BitVec 3)
  /-- Byte 0 = 0x0A, Completion. -/
  | cpl
  /-- Byte 0 = 0x4A, Completion with data. -/
  | cplD
  /-- Byte 0 = 0x0B, Completion for a locked read. -/
  | cplLk
  /-- Byte 0 = 0x4B, Completion with data for a locked read. -/
  | cplDLk
  /-- Byte 0 = 0x4C, FetchAdd AtomicOp, 32-bit address. -/
  | fetchAdd32
  /-- Byte 0 = 0x6C, FetchAdd AtomicOp, 64-bit address. -/
  | fetchAdd64
  /-- Byte 0 = 0x4D, Swap AtomicOp, 32-bit address. -/
  | swap32
  /-- Byte 0 = 0x6D, Swap AtomicOp, 64-bit address. -/
  | swap64
  /-- Byte 0 = 0x4E, Compare-and-swap AtomicOp, 32-bit address. -/
  | cas32
  /-- Byte 0 = 0x6E, Compare-and-swap AtomicOp, 64-bit address. -/
  | cas64
  /-- Byte 0 = 0x80 to 0x8F, local TLP prefix; `subtype` is byte 0 bits 3:0. -/
  | lprfx (subtype : BitVec 4)
  /-- Byte 0 = 0x90 to 0x9F, end-end TLP prefix; `subtype` is byte 0 bits 3:0. -/
  | eprfx (subtype : BitVec 4)
  /-- Byte 0 = 0xA0 to 0xBF, reserved Fmt 101; `low` is byte 0 bits 4:0. -/
  | reservedFmt5 (low : BitVec 5)
  /-- Byte 0 = 0xC0 to 0xFF, reserved Fmt 110 and 111; `low` is byte 0 bits 5:0. -/
  | reservedFmt67 (low : BitVec 6)
  /-- Any other byte 0 below 0x80, a pair with no kind (30_encoding.md R85); `low` is byte 0 bits 6:0. -/
  | unknown (low : BitVec 7)
  deriving DecidableEq, Repr

end Sys2Proof
end

