-- ==== Sys2Proof/WellFormed.lean ====
section
/-! DEFINITION. Which terms of `Instr` are instructions of the table: ILLEGAL_CMD holds a CMD value that no command has
(30_encoding.md R111), UNKNOWN a byte 0 that no other row has (30_encoding.md R85). Every other operand is well formed at
every value. -/

namespace Sys2Proof

/-- The fourteen command codes of 30_encoding.md R110. -/
def commandCodes : List Byte :=
  [0x01, 0x02, 0x03, 0x04, 0x05, 0x10, 0x11, 0x12, 0x13, 0x20, 0x21, 0x30, 0x31, 0x40]

/-- The values of byte 0 below 0x80 that a row of 30_encoding.md R84 with an exact Type has. -/
def exactByte0 : List Byte :=
  [0x00, 0x20, 0x01, 0x21, 0x40, 0x60, 0x02, 0x42, 0x04, 0x44, 0x05, 0x45, 0x1B, 0x5B,
   0x0A, 0x4A, 0x0B, 0x4B, 0x4C, 0x6C, 0x4D, 0x6D, 0x4E, 0x6E]

/-- A byte 0 of one of the two message rows: Type 10rrr with Fmt 001 or 011 (30_encoding.md R84). -/
def isMessageByte0 (b : Byte) : Bool := b &&& 0xF8 == 0x30 || b &&& 0xF8 == 0x70

/-- The term is an instruction of the table. -/
def Instr.wf : Instr → Bool
  | .illegalCmd cmd => !commandCodes.contains cmd
  | .unknown low => !exactByte0.contains (low.setWidth 8) && !isMessageByte0 (low.setWidth 8)
  | _ => true

end Sys2Proof
end

