-- ==== Sys2Proof/Decode.lean ====
section
/-! DEFINITION. The instruction image, its decoder and its encoder.

An image is what the block selects an operation by: the CMD byte (30_encoding.md R110), and behind it, where the command is
DECODE_ANY and the input buffer holds a TLP to dispatch on, byte 0 of that TLP (40_header_classify.md R133). So a
CMD row is one byte, a TLP_BYTE0 row is two, the first of them DECODE_ANY's code 0x40. [DESIGN CHOICE, log 5] -/

namespace Sys2Proof

/-- Why an image is no instruction. -/
inductive DecodeError where
  /-- There is no CMD byte. -/
  | noCommand
  /-- A byte follows a command that takes none. -/
  | trailingBytes
  deriving DecidableEq, Repr

/-- The code of DECODE_ANY, the command that dispatches on byte 0 (30_encoding.md R110). -/
def decodeAnyCode : Byte := 0x40

/-- The command rows of the table: code and instruction (30_encoding.md R110). -/
def commandRows : List (Byte × Instr) :=
  [(0x01, .classify), (0x02, .devidPack), (0x03, .devidUnpack), (0x04, .devidParse), (0x05, .devidFormat),
   (0x10, .mrdEncode), (0x11, .mwrEncode), (0x12, .mrdDecode), (0x13, .mwrDecode),
   (0x20, .cplEncode), (0x21, .cplDecode), (0x30, .cfgEncode), (0x31, .cfgDecode), (decodeAnyCode, .decodeAny)]

/-- The TLP_BYTE0 rows with all eight bits fixed: byte 0 and instruction (30_encoding.md R84). -/
def tlpRows : List (Byte × Instr) :=
  [(0x00, .mrd32), (0x20, .mrd64), (0x01, .mrdLk32), (0x21, .mrdLk64), (0x40, .mwr32), (0x60, .mwr64),
   (0x02, .iord), (0x42, .iowr), (0x04, .cfgRd0), (0x44, .cfgWr0), (0x05, .cfgRd1), (0x45, .cfgWr1),
   (0x1B, .tcfgRd), (0x5B, .tcfgWr), (0x0A, .cpl), (0x4A, .cplD), (0x0B, .cplLk), (0x4B, .cplDLk),
   (0x4C, .fetchAdd32), (0x6C, .fetchAdd64), (0x4D, .swap32), (0x6D, .swap64), (0x4E, .cas32), (0x6E, .cas64)]

/-- The command a CMD byte selects; a byte that is no command's code is ILLEGAL_CMD (30_encoding.md R110, R111). -/
def decodeCommand (cmd : Byte) : Instr := (commandRows.lookup cmd).getD (.illegalCmd cmd)

/-- The TLP_BYTE0 row of a byte 0: the rows with free bits by their mask and match, UNKNOWN last (30_encoding.md R84, R85). -/
def decodeTlpByte0 (b : Byte) : Instr :=
  match tlpRows.lookup b with
  | some i => i
  | none =>
    if b &&& 0xF8 = 0x30 then .msg (b.setWidth 3)
    else if b &&& 0xF8 = 0x70 then .msgD (b.setWidth 3)
    else if b &&& 0xF0 = 0x80 then .lprfx (b.setWidth 4)
    else if b &&& 0xF0 = 0x90 then .eprfx (b.setWidth 4)
    else if b &&& 0xE0 = 0xA0 then .reservedFmt5 (b.setWidth 5)
    else if b &&& 0xC0 = 0xC0 then .reservedFmt67 (b.setWidth 6)
    else .unknown (b.setWidth 7)

/-- The decoder: total on any bytes, refusing by name. -/
def decode : List Byte → Except DecodeError Instr
  | [] => .error .noCommand
  | [cmd] => .ok (decodeCommand cmd)
  | [cmd, b0] => if cmd = decodeAnyCode then .ok (decodeTlpByte0 b0) else .error .trailingBytes
  | _ :: _ :: _ :: _ => .error .trailingBytes

/-- The image of a TLP_BYTE0 row whose byte 0 is `b`. -/
def tlpImage (b : Byte) : List Byte := [decodeAnyCode, b]

/-- The encoder, from the code table (30_encoding.md R110) and the kind table (30_encoding.md R84). -/
def encode : Instr → List Byte
  | .classify => [0x01]
  | .devidPack => [0x02]
  | .devidUnpack => [0x03]
  | .devidParse => [0x04]
  | .devidFormat => [0x05]
  | .mrdEncode => [0x10]
  | .mwrEncode => [0x11]
  | .mrdDecode => [0x12]
  | .mwrDecode => [0x13]
  | .cplEncode => [0x20]
  | .cplDecode => [0x21]
  | .cfgEncode => [0x30]
  | .cfgDecode => [0x31]
  | .decodeAny => [0x40]
  | .illegalCmd cmd => [cmd]
  | .mrd32 => tlpImage 0x00
  | .mrd64 => tlpImage 0x20
  | .mrdLk32 => tlpImage 0x01
  | .mrdLk64 => tlpImage 0x21
  | .mwr32 => tlpImage 0x40
  | .mwr64 => tlpImage 0x60
  | .iord => tlpImage 0x02
  | .iowr => tlpImage 0x42
  | .cfgRd0 => tlpImage 0x04
  | .cfgWr0 => tlpImage 0x44
  | .cfgRd1 => tlpImage 0x05
  | .cfgWr1 => tlpImage 0x45
  | .tcfgRd => tlpImage 0x1B
  | .tcfgWr => tlpImage 0x5B
  | .msg routing => tlpImage (0b00110#5 ++ routing)
  | .msgD routing => tlpImage (0b01110#5 ++ routing)
  | .cpl => tlpImage 0x0A
  | .cplD => tlpImage 0x4A
  | .cplLk => tlpImage 0x0B
  | .cplDLk => tlpImage 0x4B
  | .fetchAdd32 => tlpImage 0x4C
  | .fetchAdd64 => tlpImage 0x6C
  | .swap32 => tlpImage 0x4D
  | .swap64 => tlpImage 0x6D
  | .cas32 => tlpImage 0x4E
  | .cas64 => tlpImage 0x6E
  | .lprfx subtype => tlpImage (0b1000#4 ++ subtype)
  | .eprfx subtype => tlpImage (0b1001#4 ++ subtype)
  | .reservedFmt5 low => tlpImage (0b101#3 ++ low)
  | .reservedFmt67 low => tlpImage (0b11#2 ++ low)
  | .unknown low => tlpImage (0b0#1 ++ low)

/-- The bytes of a table word, its first byte in bits 7:0: `k` bytes. -/
def wordBytes : Nat → Nat → List Byte
  | 0, _ => []
  | k + 1, w => BitVec.ofNat 8 w :: wordBytes k (w / 256)

/-- Is a table word a CMD word? The table's two formats number their bits alike, so the word alone must say: a word of at
most eight bits that is a command's code is that command, and a word of no bits (the ILLEGAL_CMD row fixes none) is a CMD
byte; every other word is the first bytes of a TLP. [DESIGN CHOICE, log 6] -/
def isCommandWord (nbits w : Nat) : Bool :=
  nbits == 0 || (nbits ≤ 8 && commandCodes.contains (BitVec.ofNat 8 w))

/-- The image a table word stands for. -/
def tableImage (nbits w : Nat) : List Byte :=
  if isCommandWord nbits w then [BitVec.ofNat 8 w] else tlpImage (BitVec.ofNat 8 w)

/-- The instruction the decoder reads from a word of spec/opcode_table.json. -/
def decodeTableWord (nbits w : Nat) : Option Instr := (decode (tableImage nbits w)).toOption

end Sys2Proof
end

