-- ==== Sys2Proof/Machine/State.lean ====
section
/-! DEFINITION. The state of the block, as plain data: the request register file, the captured request, the response
register file and the phase (10_state.md R20), and three fields of the model's own. The enumerations hold the codes the
spec gives and no others: a code that is never produced is no value of the type (93_implementation_defined.md U19; log 13). -/

namespace Sys2Proof.Machine

open Sys2Proof

/-- PHASE (10_state.md R30). -/
inductive Phase where
  | idle
  | busy
  | done
  deriving DecidableEq, Repr

/-- The codes of `resp.STATUS` (60_exceptions.md R250). -/
inductive Status where
  | ok
  | malformedHeader
  | truncatedBuffer
  | lengthMismatch
  | invalidAddress
  | invalidLength
  | invalidDeviceIdFormat
  | invalidCompletionStatus
  | unsupportedType
  | illegalCommand
  deriving DecidableEq, Repr

/-- The field ids of `resp.ERR_FIELD` (60_exceptions.md R251); `noField` is NONE. -/
inductive ErrField where
  | noField
  | cmd
  | buffer
  | fmtType
  | reservedBits
  | length
  | firstBe
  | lastBe
  | address
  | widthSel
  | payload
  | cplStatus
  | byteCount
  | regIndex
  | devidBus
  | devidDev
  | devidFunc
  | devidString
  deriving DecidableEq, Repr

/-- The KIND codes 0 to 29, in the order of their numbers (30_encoding.md R84). -/
inductive Kind where
  | unknown
  | mrd32
  | mrd64
  | mrdLk32
  | mrdLk64
  | mwr32
  | mwr64
  | iord
  | iowr
  | cfgRd0
  | cfgWr0
  | cfgRd1
  | cfgWr1
  | tcfgRd
  | tcfgWr
  | msg
  | msgD
  | cpl
  | cplD
  | cplLk
  | cplDLk
  | fetchAdd32
  | fetchAdd64
  | swap32
  | swap64
  | cas32
  | cas64
  | lprfx
  | eprfx
  | reservedFmt
  deriving DecidableEq, Repr

/-- What `raise E(F)` carries (00_scope.md R13). -/
structure Raise where
  status : Status
  field : ErrField
  deriving DecidableEq, Repr

/-- A byte-addressed space (20_memory.md R60): the bytes that have a value, addresses strictly rising. An address is a
byte offset of 13 bits; a cell's key is its number. A byte that is not
listed has no value: an IN_BUF byte that was never written (10_state.md R25), an OUT_BUF byte that is invalid
(10_state.md R26). -/
abbrev Memory := List Host.Cell

/-- The request register file (10_state.md R23). `none` is the spec's own "unwritten" (10_state.md R25, R35). -/
structure RequestFile where
  cmd : Option (BitVec 8)
  inLen : Option (BitVec 13)
  inBuf : Memory
  reqId : Option (BitVec 16)
  tag : Option (BitVec 8)
  addr : Option (BitVec 64)
  widthSel : Option (BitVec 2)
  byteCount : Option (BitVec 13)
  cplId : Option (BitVec 16)
  cplStatus : Option (BitVec 3)
  lowerAddr : Option (BitVec 7)
  hasData : Option Bool
  cfgType : Option Bool
  cfgWrite : Option Bool
  tgtId : Option (BitVec 16)
  regIndex : Option (BitVec 16)
  firstBe : Option (BitVec 4)
  bus : Option (BitVec 16)
  dev : Option (BitVec 16)
  func : Option (BitVec 16)
  id16 : Option (BitVec 16)
  deriving DecidableEq, Repr

/-- The request register file after reset: every field unwritten (10_state.md R35). -/
def RequestFile.unwritten : RequestFile where
  cmd := none
  inLen := none
  inBuf := []
  reqId := none
  tag := none
  addr := none
  widthSel := none
  byteCount := none
  cplId := none
  cplStatus := none
  lowerAddr := none
  hasData := none
  cfgType := none
  cfgWrite := none
  tgtId := none
  regIndex := none
  firstBe := none
  bus := none
  dev := none
  func := none
  id16 := none

/-- The names of the request fields (10_state.md R23), for the "read by" column. -/
inductive ReqField where
  | cmd
  | inLen
  /-- The bytes of IN_BUF below IN_LEN. -/
  | inBuf
  /-- Byte 0 of IN_BUF, all that CLASSIFY reads (40_header_classify.md R132). -/
  | inByte0
  | reqId
  | tag
  | addr
  | widthSel
  | byteCount
  | cplId
  | cplStatus
  | lowerAddr
  | hasData
  | cfgType
  | cfgWrite
  | tgtId
  | regIndex
  | firstBe
  | bus
  | dev
  | func
  | id16
  deriving DecidableEq, Repr

/-- One value for each candidate of DECODE_ANY, in candidate order 0 to 3 (45_validation.md R241). -/
structure PerCandidate (α : Type) where
  mrd : α
  mwr : α
  cpl : α
  cfg : α
  deriving DecidableEq, Repr

/-- The response register file (10_state.md R26). A field is its valid bit and its value: `none` is valid bit 0, and the
field then "holds no value". The four CAND_STATUS fields, and the four CAND_FIELD fields, are written and cleared together
(10_state.md R27, R31; 45_validation.md R241), so each four share one Option. -/
structure Response where
  status : Option Status
  errField : Option ErrField
  kind : Option Kind
  fmt : Option (BitVec 3)
  type : Option (BitVec 5)
  hasPayload : Option Bool
  addr64 : Option Bool
  hdrDw : Option (BitVec 3)
  reqId : Option (BitVec 16)
  tag : Option (BitVec 8)
  addr : Option (BitVec 64)
  lengthDw : Option (BitVec 11)
  byteCount : Option (BitVec 13)
  firstBe : Option (BitVec 4)
  lastBe : Option (BitVec 4)
  cplId : Option (BitVec 16)
  cplStatus : Option (BitVec 3)
  lowerAddr : Option (BitVec 7)
  hasData : Option Bool
  cfgType : Option Bool
  cfgWrite : Option Bool
  tgtId : Option (BitVec 16)
  regIndex : Option (BitVec 10)
  regNum : Option (BitVec 6)
  extReg : Option (BitVec 4)
  bus : Option (BitVec 8)
  dev : Option (BitVec 5)
  func : Option (BitVec 3)
  id16 : Option (BitVec 16)
  outLen : Option (BitVec 13)
  outBuf : Memory
  candStatus : Option (PerCandidate Status)
  candField : Option (PerCandidate ErrField)
  winner : Option (BitVec 3)
  deriving DecidableEq, Repr

/-- The response register file with every valid bit clear (10_state.md R31, R35). -/
def Response.invalid : Response where
  status := none
  errField := none
  kind := none
  fmt := none
  type := none
  hasPayload := none
  addr64 := none
  hdrDw := none
  reqId := none
  tag := none
  addr := none
  lengthDw := none
  byteCount := none
  firstBe := none
  lastBe := none
  cplId := none
  cplStatus := none
  lowerAddr := none
  hasData := none
  cfgType := none
  cfgWrite := none
  tgtId := none
  regIndex := none
  regNum := none
  extReg := none
  bus := none
  dev := none
  func := none
  id16 := none
  outLen := none
  outBuf := []
  candStatus := none
  candField := none
  winner := none

/-- A candidate of DECODE_ANY, in candidate order 0 to 3 (45_validation.md R241). -/
inductive Candidate where
  | mrd
  | mwr
  | cpl
  | cfg
  deriving DecidableEq, Repr

/-- What the host can read of the response register file (10_state.md R26). -/
inductive RespField where
  | status
  | errField
  | kind
  | fmt
  | type
  | hasPayload
  | addr64
  | hdrDw
  | reqId
  | tag
  | addr
  | lengthDw
  | byteCount
  | firstBe
  | lastBe
  | cplId
  | cplStatus
  | lowerAddr
  | hasData
  | cfgType
  | cfgWrite
  | tgtId
  | regIndex
  | regNum
  | extReg
  | bus
  | dev
  | func
  | id16
  | outLen
  /-- One byte of OUT_BUF, by its 13-bit offset (20_memory.md R60). -/
  | outBuf (offset : BitVec 13)
  | candStatus (c : Candidate)
  | candField (c : Candidate)
  | winner
  deriving DecidableEq, Repr

/-- A host write of one request field, or of one byte of IN_BUF by its 13-bit offset (10_state.md R23; 20_memory.md R60,
R66). -/
inductive HostWrite where
  | cmd (v : BitVec 8)
  | inLen (v : BitVec 13)
  | inBuf (offset : BitVec 13) (v : Byte)
  | reqId (v : BitVec 16)
  | tag (v : BitVec 8)
  | addr (v : BitVec 64)
  | widthSel (v : BitVec 2)
  | byteCount (v : BitVec 13)
  | cplId (v : BitVec 16)
  | cplStatus (v : BitVec 3)
  | lowerAddr (v : BitVec 7)
  | hasData (v : Bool)
  | cfgType (v : Bool)
  | cfgWrite (v : Bool)
  | tgtId (v : BitVec 16)
  | regIndex (v : BitVec 16)
  | firstBe (v : BitVec 4)
  | bus (v : BitVec 16)
  | dev (v : BitVec 16)
  | func (v : BitVec 16)
  | id16 (v : BitVec 16)
  deriving DecidableEq, Repr

/-- One action of the host (10_state.md R29; 70_reset_and_hazards.md R280). `wait` leaves the step to the block
[DESIGN CHOICE, log 1]. -/
inductive HostAction where
  | write (w : HostWrite)
  | start
  | read (f : RespField)
  | readPhase
  | readDone
  | reset
  | wait
  deriving DecidableEq, Repr

/-- The state of the block and, in the last three fields, what the model adds to it. -/
structure State where
  /-- The request register file (10_state.md R23). -/
  req : RequestFile
  /-- The captured request (10_state.md R24, R31). -/
  captured : Option RequestFile
  /-- The response register file (10_state.md R26). -/
  resp : Response
  /-- PHASE (10_state.md R30). -/
  phase : Phase
  /-- The MODEL's own: the block's steps left until the running operation finishes (10_state.md R33; log 2). -/
  remaining : Nat
  /-- The MODEL's own: the host's actions still to come, oldest first (log 1). -/
  hostQueue : List HostAction
  /-- The MODEL's own: what the host's last read returned (log 11). -/
  readData : Option Nat
  deriving DecidableEq, Repr

/-- Why the machine stops with a fault. -/
inductive Fault where
  /-- A START whose command reads a request field, or a byte of IN_BUF, that the host never wrote (10_state.md R25). An
  operation raises it too if its captured request lacks such a field, which no run reaches. Safe: a block may go on. -/
  | unwrittenField
  /-- A host read of a response field whose valid bit is clear, or of an OUT_BUF byte at or beyond OUT_LEN (10_state.md R26,
  R34). Safe. -/
  | invalidRead
  /-- A host write to a byte offset outside IN_BUF, 4112 to 8191 (20_memory.md R60; log 10). Safe. -/
  | noSuchByte
  /-- An operation is asked to run and no request is captured; no run reaches it (log 22). Safe. -/
  | noRequest
  deriving DecidableEq, Repr

/-- Why the machine refuses an instruction. -/
inductive Refusal where
  /-- An arm of `exec` that has no meaning yet. No arm is left so. Safe. -/
  | notModelled (mnemonic : String)
  /-- The image the block selects its operation by is no instruction; the fetch makes no such image. Safe. -/
  | undecodable (e : DecodeError)
  deriving DecidableEq, Repr

/-- The state right after reset (10_state.md R35; 70_reset_and_hazards.md R280). -/
def State.reset : State where
  req := .unwritten
  captured := none
  resp := .invalid
  phase := .idle
  remaining := 0
  hostQueue := []
  readData := none

end Sys2Proof.Machine
end

