-- ==== Sys2Proof/Config.lean ====
section
/-! DEFINITION. The implementation parameters (00_scope.md R9). -/

namespace Sys2Proof.Config

open Sys2Proof.Machine

/-- MAX_PAYLOAD_BYTES (00_scope.md R9). -/
def maxPayloadBytes : Nat := 4096

/-- MAX_PAYLOAD_DW (00_scope.md R9). -/
def maxPayloadDw : Nat := 1024

/-- MAX_IN_BYTES (00_scope.md R9, 92_eei_decisions.md D7). -/
def maxInBytes : Nat := 4112

/-- MAX_OUT_BYTES (00_scope.md R9). -/
def maxOutBytes : Nat := 4112

/-- MIN_CLASSIFY_BYTES (00_scope.md R9). -/
def minClassifyBytes : Nat := 4

/-- CFG_REG_INDEX_MAX (00_scope.md R9). -/
def cfgRegIndexMax : Nat := 1023

/-- LATENCY is OPEN: a parameter with value at least 1 (00_scope.md R9, 70_reset_and_hazards.md R283). This is how far it
lies above 1; nothing can be proved of its value. [DESIGN CHOICE, log 2] -/
opaque extraLatency : RequestFile → Nat

/-- LATENCY: `latency : Request -> Nat`, at least 1 (00_scope.md R9). -/
def latency (r : RequestFile) : Nat := extraLatency r + 1

end Sys2Proof.Config
end

