-- ==== Sys2Proof/Machine/Ops.lean ====
section
/-! DEFINITION. The named operations over the byte spaces and the response: reading and writing a byte, the spec's
access primitives (00_scope.md R12), the byte order (20_memory.md R62), what `raise` does (00_scope.md R13,
60_exceptions.md R253), and the delivery of a response (10_state.md R33). -/

namespace Sys2Proof.Machine

open Sys2Proof

/-! ## The byte spaces -/

/-- One byte of a space; `none` where the byte has no value. -/
def readByte (m : Memory) (a : Nat) : Option Byte := m.lookup a

/-- The space with byte `a` holding `v`; addresses stay strictly rising. -/
def writeByte : Memory → Nat → Byte → Memory
  | [], a, v => [(a, v)]
  | (b, w) :: m, a, v =>
    if a < b then (a, v) :: (b, w) :: m
    else if a = b then (a, v) :: m
    else (b, w) :: writeByte m a v

/-- The cells of a byte sequence that starts at byte `a`. -/
def cellsFrom (a : Nat) : List Byte → Memory
  | [] => []
  | v :: bytes => (a, v) :: cellsFrom (a + 1) bytes

/-- `OutBytes(0, s)` on an OUT_BUF whose bytes are all invalid, which is how every operation finds it (00_scope.md R12;
45_validation.md R240, "resp = all fields invalid"). -/
def outBytes (bytes : List Byte) : Memory := cellsFrom 0 bytes

/-- The addresses are strictly rising: the canonical form of a space. -/
def sortedCells : Memory → Bool
  | [] => true
  | [_] => true
  | (a, _) :: (b, w) :: m => decide (a < b) && sortedCells ((b, w) :: m)

/-- The canonical form, in a space of `size` bytes (20_memory.md R60). -/
def Memory.wf (size : Nat) (m : Memory) : Bool := sortedCells m && m.all fun c => decide (c.1 < size)

/-- The bytes of a buffer at addresses `a .. a+n-1`, a byte without a value as 0x00: no operation is given one, since
`fieldsWritten` (Machine/Operands.lean) stops it first. -/
def bufferBytes (m : Memory) (a : Nat) : Nat → List Byte
  | 0 => []
  | n + 1 => (readByte m a).getD 0 :: bufferBytes m (a + 1) n

/-- Every byte at addresses `a .. a+n-1` has a value. -/
def bytesWritten (m : Memory) (a : Nat) : Nat → Bool
  | 0 => true
  | n + 1 => (readByte m a).isSome && bytesWritten m (a + 1) n

/-! ## Byte order (20_memory.md R62) -/

/-- The unsigned value of a byte sequence, most significant byte first. -/
def beNat (bytes : List Byte) : Nat := bytes.foldl (fun acc b => acc * 256 + b.toNat) 0

/-- `be_bytes_k(v)`: the k-byte big-endian form of `v`. -/
def beBytes : Nat → Nat → List Byte
  | 0, _ => []
  | k + 1, v => BitVec.ofNat 8 (v / 256 ^ k) :: beBytes k v

/-- `InBytes(a, n)` of a TLP (00_scope.md R12). -/
def inBytes (tlp : List Byte) (a n : Nat) : List Byte := (tlp.drop a).take n

/-- `MemRead(a, n)` of a TLP (00_scope.md R12). -/
def memRead (tlp : List Byte) (a n : Nat) : Nat := beNat (inBytes tlp a n)

/-- `MemRead(a, 1)` of a TLP, as a byte (20_memory.md R65). -/
def byteAt (tlp : List Byte) (a : Nat) : Byte := tlp.getD a 0

/-- `zeros(k)` (00_scope.md R11). -/
def zeroBytes (k : Nat) : List Byte := List.replicate k 0

/-- `ceil_div(a, b)` (00_scope.md R11). -/
def ceilDiv (a b : Nat) : Nat := (a + b - 1) / b

/-! ## Errors (60_exceptions.md R253, R254)

There is no trap entry and no trap return (60_exceptions.md R253, R257): taking an error is writing a response, and the next
START begins the next operation. -/

/-- `raise E(F)` where `cond` fails (00_scope.md R13). -/
def require (cond : Bool) (status : Status) (field : ErrField) : Except Raise Unit :=
  if cond then .ok () else .error ⟨status, field⟩

/-- The response of an operation that raised: STATUS and ERR_FIELD valid, every other field invalid
(60_exceptions.md R254). -/
def raiseError (e : Raise) : Response :=
  { Response.invalid with status := some e.status, errField := some e.field }

/-- The response of an operation that reached its end: STATUS = OK, ERR_FIELD = NONE (00_scope.md R13). -/
def succeed (resp : Response) : Response :=
  { resp with status := some .ok, errField := some .noField }

/-- The response of an operation's result. -/
def respond : Except Raise Response → Response
  | .ok resp => succeed resp
  | .error e => raiseError e

/-- Finish: the response fields appear together, at the same step as PHASE becomes DONE (10_state.md R33; for an error
60_exceptions.md R253 point 3). -/
def deliver (s : State) (resp : Response) : State :=
  { s with resp := resp, phase := .done, remaining := 0 }

end Sys2Proof.Machine
end

