-- ==== Sys2Proof/Machine/Operands.lean ====
section
/-! DEFINITION. Where an operation takes its operands: the captured request fields it reads (10_state.md R23) and the header
fields of a TLP (30_encoding.md R87, R92, R98 to R103), with their encodings. -/

namespace Sys2Proof.Machine

open Sys2Proof

/-! ## Request fields -/

/-- The captured request as the pseudocode reads it: `req.F` (00_scope.md R12), with IN_LEN as a natural and IN_BUF as the
bytes below IN_LEN (20_memory.md R61). -/
structure Operands where
  cmd : BitVec 8
  inLen : Nat
  input : List Byte
  reqId : BitVec 16
  tag : BitVec 8
  addr : BitVec 64
  widthSel : BitVec 2
  byteCount : Nat
  cplId : BitVec 16
  cplStatus : BitVec 3
  lowerAddr : BitVec 7
  hasData : Bool
  cfgType : Bool
  cfgWrite : Bool
  tgtId : BitVec 16
  regIndex : Nat
  firstBe : BitVec 4
  bus : Nat
  dev : Nat
  func : Nat
  id16 : BitVec 16
  deriving DecidableEq, Repr

/-- How many bytes of IN_BUF IN_LEN makes meaningful; a longer IN_LEN than the buffer is refused before any byte is read
(20_memory.md R60; 45_validation.md R240). -/
def meaningfulBytes (r : RequestFile) : Nat :=
  let n := (r.inLen.getD 0).toNat
  if n ≤ Config.maxInBytes then n else 0

/-- The values of a captured request. An unwritten field gives 0, which no operation sees: `fieldsWritten` stops an
operation that reads one, and a field a command does not read "may hold anything" (10_state.md R25). -/
def operandsOf (r : RequestFile) : Operands where
  cmd := r.cmd.getD 0
  inLen := (r.inLen.getD 0).toNat
  input := bufferBytes r.inBuf 0 (meaningfulBytes r)
  reqId := r.reqId.getD 0
  tag := r.tag.getD 0
  addr := r.addr.getD 0
  widthSel := r.widthSel.getD 0
  byteCount := (r.byteCount.getD 0).toNat
  cplId := r.cplId.getD 0
  cplStatus := r.cplStatus.getD 0
  lowerAddr := r.lowerAddr.getD 0
  hasData := r.hasData.getD false
  cfgType := r.cfgType.getD false
  cfgWrite := r.cfgWrite.getD false
  tgtId := r.tgtId.getD 0
  regIndex := (r.regIndex.getD 0).toNat
  firstBe := r.firstBe.getD 0
  bus := (r.bus.getD 0).toNat
  dev := (r.dev.getD 0).toNat
  func := (r.func.getD 0).toNat
  id16 := r.id16.getD 0

/-- The host has written the field (10_state.md R25). Of IN_BUF: every byte below IN_LEN, "only bytes 0 .. IN_LEN-1 are
read" (10_state.md R23); of CLASSIFY's buffer, byte 0 where it is read (40_header_classify.md R132).
[DESIGN CHOICE, log 3] -/
def fieldWritten (r : RequestFile) : ReqField → Bool
  | .cmd => r.cmd.isSome
  | .inLen => r.inLen.isSome
  | .inBuf => bytesWritten r.inBuf 0 (meaningfulBytes r)
  | .inByte0 => decide (meaningfulBytes r < Config.minClassifyBytes) || (readByte r.inBuf 0).isSome
  | .reqId => r.reqId.isSome
  | .tag => r.tag.isSome
  | .addr => r.addr.isSome
  | .widthSel => r.widthSel.isSome
  | .byteCount => r.byteCount.isSome
  | .cplId => r.cplId.isSome
  | .cplStatus => r.cplStatus.isSome
  | .lowerAddr => r.lowerAddr.isSome
  | .hasData => r.hasData.isSome
  | .cfgType => r.cfgType.isSome
  | .cfgWrite => r.cfgWrite.isSome
  | .tgtId => r.tgtId.isSome
  | .regIndex => r.regIndex.isSome
  | .firstBe => r.firstBe.isSome
  | .bus => r.bus.isSome
  | .dev => r.dev.isSome
  | .func => r.func.isSome
  | .id16 => r.id16.isSome

/-- All the fields are written. -/
def fieldsWritten (r : RequestFile) (fields : List ReqField) : Bool := fields.all (fieldWritten r)

/-- The request fields an operation reads besides CMD and IN_LEN: the "read by" column of 10_state.md R23. A TLP_BYTE0 row
is a DECODE_ANY and reads what that reads. -/
def operandFields : Instr → List ReqField
  | .classify => [.inByte0]
  | .devidPack => [.bus, .dev, .func]
  | .devidUnpack => [.id16]
  | .devidParse => [.inBuf]
  | .devidFormat => [.id16]
  | .mrdEncode => [.reqId, .tag, .addr, .widthSel, .byteCount]
  | .mwrEncode => [.reqId, .tag, .addr, .widthSel, .inBuf]
  | .mrdDecode => [.inBuf]
  | .mwrDecode => [.inBuf]
  | .cplEncode => [.cplId, .cplStatus, .byteCount, .reqId, .tag, .lowerAddr, .hasData, .inBuf]
  | .cplDecode => [.inBuf]
  | .cfgEncode => [.cfgType, .cfgWrite, .reqId, .tag, .tgtId, .regIndex, .firstBe, .inBuf]
  | .cfgDecode => [.inBuf]
  | .decodeAny => [.inBuf]
  | .illegalCmd _ => []
  | .mrd32 | .mrd64 | .mrdLk32 | .mrdLk64 | .mwr32 | .mwr64 | .iord | .iowr => [.inBuf]
  | .cfgRd0 | .cfgWr0 | .cfgRd1 | .cfgWr1 | .tcfgRd | .tcfgWr | .msg _ | .msgD _ => [.inBuf]
  | .cpl | .cplD | .cplLk | .cplDLk => [.inBuf]
  | .fetchAdd32 | .fetchAdd64 | .swap32 | .swap64 | .cas32 | .cas64 => [.inBuf]
  | .lprfx _ | .eprfx _ | .reservedFmt5 _ | .reservedFmt67 _ | .unknown _ => [.inBuf]

/-- The request fields an operation reads: CMD and IN_LEN "for every command" (70_reset_and_hazards.md R281), and its
operands. -/
def fieldsRead (i : Instr) : List ReqField := [.cmd, .inLen] ++ operandFields i

/-! ## Header fields of a TLP -/

/-- `LengthValue(f)` of the 10-bit Length field (30_encoding.md R87). -/
def lengthValue (f : Nat) : Nat := if f = 0 then Config.maxPayloadDw else f

/-- `LengthField(L)` (30_encoding.md R87). -/
def lengthField (L : Nat) : Nat := L % Config.maxPayloadDw

/-- `ByteCountValue(f)` of the 12-bit Byte Count field (30_encoding.md R92). -/
def byteCountValue (f : Nat) : Nat := if f = 0 then Config.maxPayloadBytes else f

/-- `ByteCountField(b)` (30_encoding.md R92). -/
def byteCountField (b : Nat) : Nat := b % Config.maxPayloadBytes

/-- The raw Length field, `DW0[9:0]` = `MemRead(2, 2)[9:0]` (30_encoding.md R86). -/
def rawLength (tlp : List Byte) : Nat := memRead tlp 2 2 % 1024

/-- Fmt of a byte 0 (30_encoding.md R82). -/
def fmtOf (b0 : Byte) : BitVec 3 := b0.extractLsb' 5 3

/-- Type of a byte 0 (30_encoding.md R83). -/
def typeOf (b0 : Byte) : BitVec 5 := b0.extractLsb' 0 5

/-- The header size in bytes, 12 or 16: `12 + 4 * fmt[0]` (30_encoding.md R81, 45_validation.md R230). -/
def headerBytes (tlp : List Byte) : Nat := if (fmtOf (byteAt tlp 0)).getLsbD 0 then 16 else 12

/-- First DW BE of a memory or configuration request, byte 7 bits 3:0 (30_encoding.md R88). -/
def firstBeOf (tlp : List Byte) : BitVec 4 := (byteAt tlp 7).extractLsb' 0 4

/-- Last DW BE of a memory or configuration request, byte 7 bits 7:4 (30_encoding.md R88). -/
def lastBeOf (tlp : List Byte) : BitVec 4 := (byteAt tlp 7).extractLsb' 4 4

/-- A 16-bit header field at a byte offset (20_memory.md R65). -/
def field16 (tlp : List Byte) (a : Nat) : BitVec 16 := BitVec.ofNat 16 (memRead tlp a 2)

/-- A byte of a header under construction. -/
def hdrByte (v : Nat) : Byte := BitVec.ofNat 8 v

/-- A 16-bit field of a header under construction, `v div 256, v mod 256` (20_memory.md R62). -/
def hdr16 (v : Nat) : List Byte := [hdrByte (v / 256), hdrByte (v % 256)]

end Sys2Proof.Machine
end

