-- ==== Sys2Proof/Machine/Flags.lean ====
section
/-! DEFINITION. The single-bit status outputs (10_state.md R28) and the functions of a Fmt that CLASSIFY's flags come from
(40_header_classify.md R132). The block has no condition codes. -/

namespace Sys2Proof.Machine

open Sys2Proof

/-- `DONE = (PHASE == DONE)` (10_state.md R28). -/
def doneFlag (s : State) : Bool := s.phase == .done

/-- `resp.STATUS == OK`, read as a success flag; it has no value where STATUS is invalid (10_state.md R28). -/
def successFlag (resp : Response) : Option Bool := resp.status.map (· == .ok)

/-- HAS_PAYLOAD of a Fmt: `fmt[1]`, and 0 for a prefix and a reserved Fmt (40_header_classify.md R132). -/
def hasPayloadFlag (fmt : BitVec 3) : Bool := decide (fmt.toNat ≤ 3) && fmt.getLsbD 1

/-- ADDR64 of a Fmt: `fmt[0]`, and 0 for a prefix and a reserved Fmt (40_header_classify.md R132). -/
def addr64Flag (fmt : BitVec 3) : Bool := decide (fmt.toNat ≤ 3) && fmt.getLsbD 0

/-- HDR_DW of a Fmt: `3 + fmt[0]`, 1 for a prefix, 0 for a reserved Fmt (40_header_classify.md R132). -/
def headerDw (fmt : BitVec 3) : BitVec 3 :=
  if fmt.toNat ≤ 3 then (if fmt.getLsbD 0 then 4 else 3)
  else if fmt.toNat = 4 then 1
  else 0

/-- The 4DW bit of a variant's byte 0, its ADDR64 (42_memory_rw.md R166, R167). -/
def fourDwFlag (tlp : List Byte) : Bool := (fmtOf (byteAt tlp 0)).getLsbD 0

/-- The with-data bit of a variant's byte 0 (30_encoding.md R81). -/
def withDataFlag (tlp : List Byte) : Bool := (fmtOf (byteAt tlp 0)).getLsbD 1

end Sys2Proof.Machine
end

