-- ==== Sys2Proof/Machine/Validation.lean ====
section
/-! DEFINITION. The discriminator (40_header_classify.md R130, R131) and the checks every variant decoder shares
(45_validation.md R230 to R233). -/

namespace Sys2Proof.Machine

open Sys2Proof

/-- The rows of the kind table with an exact Type: Fmt, Type, KIND (30_encoding.md R84). -/
def kindRows : List ((Nat × Nat) × Kind) :=
  [((0, 0b00000), .mrd32), ((1, 0b00000), .mrd64), ((0, 0b00001), .mrdLk32), ((1, 0b00001), .mrdLk64),
   ((2, 0b00000), .mwr32), ((3, 0b00000), .mwr64), ((0, 0b00010), .iord), ((2, 0b00010), .iowr),
   ((0, 0b00100), .cfgRd0), ((2, 0b00100), .cfgWr0), ((0, 0b00101), .cfgRd1), ((2, 0b00101), .cfgWr1),
   ((0, 0b11011), .tcfgRd), ((2, 0b11011), .tcfgWr),
   ((0, 0b01010), .cpl), ((2, 0b01010), .cplD), ((0, 0b01011), .cplLk), ((2, 0b01011), .cplDLk),
   ((2, 0b01100), .fetchAdd32), ((3, 0b01100), .fetchAdd64), ((2, 0b01101), .swap32), ((3, 0b01101), .swap64),
   ((2, 0b01110), .cas32), ((3, 0b01110), .cas64)]

/-- `KindOf(b0)` (40_header_classify.md R130). -/
def kindOf (b0 : Byte) : Kind :=
  let fmt := (fmtOf b0).toNat
  let typ := (typeOf b0).toNat
  if fmt ≥ 5 then .reservedFmt
  else if fmt = 4 then (if typ / 16 = 0 then .lprfx else .eprfx)
  else
    match kindRows.lookup (fmt, typ) with
    | some kind => kind
    | none =>
      if typ / 8 = 2 ∧ fmt = 1 then .msg
      else if typ / 8 = 2 ∧ fmt = 3 then .msgD
      else .unknown

/-- The KIND of a TLP_BYTE0 row (30_encoding.md R84); a command has none. -/
def rowKind : Instr → Option Kind
  | .classify | .devidPack | .devidUnpack | .devidParse | .devidFormat => none
  | .mrdEncode | .mwrEncode | .mrdDecode | .mwrDecode | .cplEncode | .cplDecode => none
  | .cfgEncode | .cfgDecode | .decodeAny | .illegalCmd _ => none
  | .mrd32 => some .mrd32
  | .mrd64 => some .mrd64
  | .mrdLk32 => some .mrdLk32
  | .mrdLk64 => some .mrdLk64
  | .mwr32 => some .mwr32
  | .mwr64 => some .mwr64
  | .iord => some .iord
  | .iowr => some .iowr
  | .cfgRd0 => some .cfgRd0
  | .cfgWr0 => some .cfgWr0
  | .cfgRd1 => some .cfgRd1
  | .cfgWr1 => some .cfgWr1
  | .tcfgRd => some .tcfgRd
  | .tcfgWr => some .tcfgWr
  | .msg _ => some .msg
  | .msgD _ => some .msgD
  | .cpl => some .cpl
  | .cplD => some .cplD
  | .cplLk => some .cplLk
  | .cplDLk => some .cplDLk
  | .fetchAdd32 => some .fetchAdd32
  | .fetchAdd64 => some .fetchAdd64
  | .swap32 => some .swap32
  | .swap64 => some .swap64
  | .cas32 => some .cas32
  | .cas64 => some .cas64
  | .lprfx _ => some .lprfx
  | .eprfx _ => some .eprfx
  | .reservedFmt5 _ => some .reservedFmt
  | .reservedFmt67 _ => some .reservedFmt
  | .unknown _ => some .unknown

/-- The kinds MRD_DECODE accepts (40_header_classify.md R131). -/
def acceptsMrd : Kind → Bool
  | .mrd32 | .mrd64 => true
  | _ => false

/-- The kinds MWR_DECODE accepts (40_header_classify.md R131). -/
def acceptsMwr : Kind → Bool
  | .mwr32 | .mwr64 => true
  | _ => false

/-- The kinds CPL_DECODE accepts (40_header_classify.md R131). -/
def acceptsCpl : Kind → Bool
  | .cpl | .cplD => true
  | _ => false

/-- The kinds CFG_DECODE accepts (40_header_classify.md R131). -/
def acceptsCfg : Kind → Bool
  | .cfgRd0 | .cfgWr0 | .cfgRd1 | .cfgWr1 => true
  | _ => false

/-- `DecodePrologue(S)` for a TLP of the kind `kind`, in the order of 45_validation.md R230 and R231. -/
def decodePrologue (accepts : Kind → Bool) (kind : Kind) (tlp : List Byte) : Except Raise Unit := do
  require (decide (Config.minClassifyBytes ≤ tlp.length)) .malformedHeader .buffer
  require (accepts kind) .unsupportedType .fmtType
  require (decide (headerBytes tlp ≤ tlp.length)) .malformedHeader .buffer

/-- The must-be-zero masks of a variant beyond DW0: byte offset and mask (30_encoding.md R96, 45_validation.md R232). -/
def variantMbz : Kind → List (Nat × Byte)
  | .mrd32 | .mwr32 => [(11, 0x03)]
  | .mrd64 | .mwr64 => [(15, 0x03)]
  | .cpl | .cplD => [(6, 0x10), (11, 0x80)]
  | .cfgRd0 | .cfgWr0 | .cfgRd1 | .cfgWr1 => [(10, 0xF0), (11, 0x03)]
  | _ => []

/-- All must-be-zero masks of a kind, DW0's included (30_encoding.md R96). -/
def mbzMasks (kind : Kind) : List (Nat × Byte) := [(1, 0xFF), (2, 0xFC)] ++ variantMbz kind

/-- Every must-be-zero bit of the header is 0. -/
def mbzClear (kind : Kind) (tlp : List Byte) : Bool :=
  (mbzMasks kind).all fun row => byteAt tlp row.1 &&& row.2 == 0

/-- `CheckMBZ(kind, hdr)` (45_validation.md R232). -/
def checkMbz (kind : Kind) (tlp : List Byte) : Except Raise Unit :=
  require (mbzClear kind tlp) .malformedHeader .reservedBits

/-- `CheckPayload(hdr, need)` (45_validation.md R233). -/
def checkPayload (tlp : List Byte) (hdr need : Nat) : Except Raise Unit := do
  require (decide (need ≤ tlp.length - hdr)) .truncatedBuffer .payload
  require (decide (tlp.length - hdr ≤ need)) .lengthMismatch .payload

end Sys2Proof.Machine
end

