-- ==== Sys2Proof/Machine/Operation.lean ====
section
/-! DEFINITION. Running one operation on the captured request: the part of `Exec` that every command shares
(45_validation.md R240) and the finish step that delivers its response (10_state.md R33). -/

namespace Sys2Proof.Machine

open Sys2Proof

/-- The check of IN_LEN that `Exec` makes for every command, before the command's own (45_validation.md R240). -/
def withinBuffer (op : Operands → Response) (o : Operands) : Response :=
  if Config.maxInBytes < o.inLen then raiseError ⟨.illegalCommand, .buffer⟩ else op o

/-- Run `op` for the instruction `i` on the captured request and deliver its response. -/
def complete (i : Instr) (op : Operands → Response) (s : State) : Host.Outcome State Fault Refusal :=
  match s.captured with
  | none => .fault .noRequest
  | some r =>
    if fieldsWritten r (fieldsRead i) then .next (deliver s (op (operandsOf r)))
    else .fault .unwrittenField

/-- Run a command: the IN_LEN check, then the command's own pseudocode. -/
def runCommand (i : Instr) (op : Operands → Response) (s : State) : Host.Outcome State Fault Refusal :=
  complete i (withinBuffer op) s

end Sys2Proof.Machine
end

