-- ==== Sys2Proof/Machine/Completion.lean ====
section
/-! DEFINITION. The Completion encoder and decoder (43_completion.md). -/

namespace Sys2Proof.Machine

open Sys2Proof

/-- `StatusOK(s)`: SC, UR, CRS and CA (43_completion.md R190). -/
def statusOk (st : BitVec 3) : Bool := st == 0 || st == 1 || st == 2 || st == 4

/-- Byte-count consistency of a CplD: `L <= ceil_div(LA[1:0] + BC, 4)` (43_completion.md R191). -/
def countConsistent (L bc : Nat) (la : BitVec 7) : Bool := decide (L ≤ ceilDiv (la.toNat % 4 + bc) 4)

/-- The header of a completion (30_encoding.md R91): BCM and the reserved bit of byte 11 are 0. -/
def completionHeader (o : Operands) (fmt L : Nat) : List Byte :=
  let f := lengthField L
  let b := byteCountField o.byteCount
  [hdrByte (fmt * 32 + 0b01010), 0x00, hdrByte (f / 256), hdrByte (f % 256)] ++ hdr16 o.cplId.toNat ++
    [hdrByte (o.cplStatus.toNat * 32 + b / 256), hdrByte (b % 256)] ++ hdr16 o.reqId.toNat ++
    [o.tag, hdrByte o.lowerAddr.toNat]

/-- The fields CPL_ENCODE writes. -/
def completionEncoded (kind : Kind) (L : Nat) (out : List Byte) : Response :=
  { Response.invalid with
    outLen := some (BitVec.ofNat 13 out.length)
    outBuf := outBytes out
    kind := some kind
    lengthDw := some (BitVec.ofNat 11 L) }

/-- CPL_ENCODE's pseudocode (43_completion.md R192). -/
def cplEncode (o : Operands) : Except Raise Response := do
  require (statusOk o.cplStatus) .invalidCompletionStatus .cplStatus
  require (decide (1 ≤ o.byteCount ∧ o.byteCount ≤ Config.maxPayloadBytes)) .invalidLength .byteCount
  if o.hasData then do
    let n := o.inLen
    require (decide (1 ≤ n ∧ n ≤ Config.maxPayloadBytes ∧ n % 4 = 0)) .invalidLength .payload
    let L := n / 4
    require (countConsistent L o.byteCount o.lowerAddr) .lengthMismatch .byteCount
    return completionEncoded .cplD L (completionHeader o 0b010 L ++ inBytes o.input 0 (4 * L))
  else do
    require (o.inLen == 0) .lengthMismatch .payload
    return completionEncoded .cpl 0 (completionHeader o 0b000 0)

/-- Completion Status, byte 6 bits 7:5 (30_encoding.md R91). -/
def cplStatusOf (tlp : List Byte) : BitVec 3 := (byteAt tlp 6).extractLsb' 5 3

/-- Byte Count of a completion, 1 to 4096 (30_encoding.md R92). -/
def byteCountOf (tlp : List Byte) : Nat := byteCountValue (memRead tlp 6 2 % 4096)

/-- Lower Address, byte 11 bits 6:0 (30_encoding.md R91). -/
def lowerAddrOf (tlp : List Byte) : BitVec 7 := (byteAt tlp 11).extractLsb' 0 7

/-- The fields CPL_DECODE writes, with `L` payload dwords. -/
def completionDecoded (kind : Kind) (tlp : List Byte) (L : Nat) : Response :=
  { Response.invalid with
    outLen := some (BitVec.ofNat 13 (4 * L))
    outBuf := outBytes (inBytes tlp 12 (4 * L))
    kind := some kind
    cplId := some (field16 tlp 4)
    cplStatus := some (cplStatusOf tlp)
    byteCount := some (BitVec.ofNat 13 (byteCountOf tlp))
    reqId := some (field16 tlp 8)
    tag := some (byteAt tlp 10)
    lowerAddr := some (lowerAddrOf tlp)
    hasData := some (kind == .cplD)
    lengthDw := some (BitVec.ofNat 11 L) }

/-- CPL_DECODE's pseudocode, for a TLP of the kind `kind` (43_completion.md R193). -/
def cplDecodeAs (kind : Kind) (tlp : List Byte) : Except Raise Response := do
  decodePrologue acceptsCpl kind tlp
  checkMbz kind tlp
  require (statusOk (cplStatusOf tlp)) .invalidCompletionStatus .cplStatus
  if kind = .cplD then do
    let L := lengthValue (rawLength tlp)
    checkPayload tlp 12 (4 * L)
    require (countConsistent L (byteCountOf tlp) (lowerAddrOf tlp)) .lengthMismatch .byteCount
    return completionDecoded kind tlp L
  else do
    require (rawLength tlp == 0) .lengthMismatch .length
    checkPayload tlp 12 0
    return completionDecoded kind tlp 0

/-- CPL_DECODE of a buffer, whose kind byte 0 gives (45_validation.md R230). -/
def cplDecode (tlp : List Byte) : Except Raise Response := cplDecodeAs (kindOf (byteAt tlp 0)) tlp

/-! ## The commands -/

/-- CPL_ENCODE, code 0x20. -/
def execCplEncode (s : State) : Host.Outcome State Fault Refusal :=
  runCommand .cplEncode (fun o => respond (cplEncode o)) s

/-- CPL_DECODE, code 0x21. -/
def execCplDecode (s : State) : Host.Outcome State Fault Refusal :=
  runCommand .cplDecode (fun o => respond (cplDecode o.input)) s

end Sys2Proof.Machine
end

