-- ==== Sys2Proof/Machine/Configuration.lean ====
section
/-! DEFINITION. The Configuration Read and Write encoder and decoder (44_config.md). -/

namespace Sys2Proof.Machine

open Sys2Proof

/-- The kind CFG_ENCODE's table gives (44_config.md R210). -/
def configKind (write type1 : Bool) : Kind :=
  match write, type1 with
  | false, false => .cfgRd0
  | false, true => .cfgRd1
  | true, false => .cfgWr0
  | true, true => .cfgWr1

/-- The header of a configuration request (30_encoding.md R93, R94): Length 1, Last DW BE 0000. -/
def configHeader (o : Operands) (fmt : Nat) : List Byte :=
  [hdrByte (fmt * 32 + 0b00100 + o.cfgType.toNat), 0x00, 0x00, 0x01] ++ hdr16 o.reqId.toNat ++
    [o.tag, hdrByte o.firstBe.toNat] ++ hdr16 o.tgtId.toNat ++
    [hdrByte (o.regIndex / 64), hdrByte (o.regIndex % 64 * 4)]

/-- The fields CFG_ENCODE writes. -/
def configEncoded (kind : Kind) (out : List Byte) : Response :=
  { Response.invalid with
    outLen := some (BitVec.ofNat 13 out.length)
    outBuf := outBytes out
    kind := some kind
    lengthDw := some 1 }

/-- CFG_ENCODE's pseudocode (44_config.md R210). -/
def cfgEncode (o : Operands) : Except Raise Response := do
  require (decide (o.regIndex ≤ Config.cfgRegIndexMax)) .invalidAddress .regIndex
  if o.cfgWrite then do
    require (o.inLen == 4) .invalidLength .payload
    return configEncoded (configKind true o.cfgType) (configHeader o 0b010 ++ inBytes o.input 0 4)
  else do
    require (o.inLen == 0) .lengthMismatch .payload
    return configEncoded (configKind false o.cfgType) (configHeader o 0b000)

/-- The register index of a configuration request: Extended Register Number and Register Number (30_encoding.md R102). -/
def regIndexOf (tlp : List Byte) : BitVec 10 :=
  (byteAt tlp 10).extractLsb' 0 4 ++ (byteAt tlp 11).extractLsb' 2 6

/-- The fields CFG_DECODE writes, with `payload` payload bytes. -/
def configDecoded (kind : Kind) (tlp : List Byte) (payload : Nat) : Response :=
  { Response.invalid with
    outLen := some (BitVec.ofNat 13 payload)
    outBuf := outBytes (inBytes tlp 12 payload)
    kind := some kind
    cfgType := some ((byteAt tlp 0).getLsbD 0)
    cfgWrite := some (withDataFlag tlp)
    reqId := some (field16 tlp 4)
    tag := some (byteAt tlp 6)
    firstBe := some (firstBeOf tlp)
    tgtId := some (field16 tlp 8)
    regIndex := some (regIndexOf tlp)
    regNum := some ((regIndexOf tlp).extractLsb' 0 6)
    extReg := some ((regIndexOf tlp).extractLsb' 6 4)
    lengthDw := some 1 }

/-- CFG_DECODE's pseudocode, for a TLP of the kind `kind` (44_config.md R211). -/
def cfgDecodeAs (kind : Kind) (tlp : List Byte) : Except Raise Response := do
  decodePrologue acceptsCfg kind tlp
  checkMbz kind tlp
  require (rawLength tlp == 1) .invalidLength .length
  require (lastBeOf tlp == 0) .malformedHeader .lastBe
  let need := if withDataFlag tlp then 4 else 0
  checkPayload tlp 12 need
  return configDecoded kind tlp need

/-- CFG_DECODE of a buffer, whose kind byte 0 gives (45_validation.md R230). -/
def cfgDecode (tlp : List Byte) : Except Raise Response := cfgDecodeAs (kindOf (byteAt tlp 0)) tlp

/-! ## The commands -/

/-- CFG_ENCODE, code 0x30. -/
def execCfgEncode (s : State) : Host.Outcome State Fault Refusal :=
  runCommand .cfgEncode (fun o => respond (cfgEncode o)) s

/-- CFG_DECODE, code 0x31. -/
def execCfgDecode (s : State) : Host.Outcome State Fault Refusal :=
  runCommand .cfgDecode (fun o => respond (cfgDecode o.input)) s

end Sys2Proof.Machine
end

