-- ==== Sys2Proof/Machine/MemoryRw.lean ====
section
/-! DEFINITION. The Memory Read and Memory Write encoders and decoders (42_memory_rw.md). -/

namespace Sys2Proof.Machine

open Sys2Proof

/-- `2^k - 1`: the enable mask of the first `k` bytes of a dword (30_encoding.md R99). -/
def lowMask (k : Nat) : BitVec 4 := BitVec.ofNat 4 (2 ^ k - 1)

/-- `CountToBe(n)`: Length in dwords, First DW BE and Last DW BE (42_memory_rw.md R160). -/
def countToBe (n : Nat) : Nat × BitVec 4 × BitVec 4 :=
  let L := ceilDiv n 4
  if L = 1 then (L, lowMask n, 0) else (L, 0b1111, lowMask (n - 4 * (L - 1)))

/-- `C(m)` of 42_memory_rw.md R161: how many bytes a low-contiguous mask enables. -/
def maskCount (m : BitVec 4) : Option Nat :=
  if m = 0b0001 then some 1
  else if m = 0b0011 then some 2
  else if m = 0b0111 then some 3
  else if m = 0b1111 then some 4
  else none

/-- The value of an option, or `raise E(F)` where it has none. -/
def defined (x : Option Nat) (status : Status) (field : ErrField) : Except Raise Nat :=
  match x with
  | some n => .ok n
  | none => .error ⟨status, field⟩

/-- `BeToCount(L, fbe, lbe)` (42_memory_rw.md R161). -/
def beToCount (L : Nat) (fbe lbe : BitVec 4) : Except Raise Nat :=
  if L = 1 then do
    require (fbe != 0) .invalidLength .firstBe
    let n ← defined (maskCount fbe) .malformedHeader .firstBe
    require (lbe == 0) .malformedHeader .lastBe
    return n
  else do
    require (fbe == 0b1111) .malformedHeader .firstBe
    let n ← defined (maskCount lbe) .malformedHeader .lastBe
    return 4 * (L - 1) + n

/-- The address needs more than 32 bits. -/
def isBig (a : BitVec 64) : Bool := decide (0xFFFFFFFF < a.toNat)

/-- `AddrCheck(a, wsel)`: is the 4DW format used (42_memory_rw.md R163)? `wsel` is not 3: its callers have refused that. -/
def addrCheck (a : BitVec 64) (wsel : BitVec 2) : Except Raise Bool := do
  require (a.extractLsb' 0 2 == 0) .invalidAddress .address
  if wsel = 0 then
    return isBig a
  else if wsel = 1 then do
    require (!isBig a) .invalidAddress .address
    return false
  else do
    require (isBig a) .invalidAddress .address
    return true

/-- The header of a memory request (30_encoding.md R86, R88 to R90): `fmt` without its 4DW bit. -/
def memoryHeader (o : Operands) (fmt : Nat) (w64 : Bool) (L : Nat) (fbe lbe : BitVec 4) : List Byte :=
  let f := lengthField L
  [hdrByte ((fmt + w64.toNat) * 32), 0x00, hdrByte (f / 256), hdrByte (f % 256)] ++ hdr16 o.reqId.toNat ++
    [o.tag, hdrByte (lbe.toNat * 16 + fbe.toNat)] ++
    (if w64 then beBytes 8 o.addr.toNat else beBytes 4 o.addr.toNat)

/-- The fields both memory encoders write. -/
def memoryEncoded (kind : Kind) (w64 : Bool) (L : Nat) (fbe lbe : BitVec 4) (out : List Byte) : Response :=
  { Response.invalid with
    outLen := some (BitVec.ofNat 13 out.length)
    outBuf := outBytes out
    kind := some kind
    addr64 := some w64
    lengthDw := some (BitVec.ofNat 11 L)
    firstBe := some fbe
    lastBe := some lbe }

/-- MRD_ENCODE's pseudocode (42_memory_rw.md R164). -/
def mrdEncode (o : Operands) : Except Raise Response := do
  require (o.widthSel != 3) .illegalCommand .widthSel
  require (decide (1 ≤ o.byteCount ∧ o.byteCount ≤ Config.maxPayloadBytes)) .invalidLength .byteCount
  let w64 ← addrCheck o.addr o.widthSel
  let (L, fbe, lbe) := countToBe o.byteCount
  return memoryEncoded (if w64 then .mrd64 else .mrd32) w64 L fbe lbe (memoryHeader o 0b000 w64 L fbe lbe)

/-- MWR_ENCODE's pseudocode (42_memory_rw.md R165). -/
def mwrEncode (o : Operands) : Except Raise Response := do
  require (o.widthSel != 3) .illegalCommand .widthSel
  require (decide (1 ≤ o.inLen ∧ o.inLen ≤ Config.maxPayloadBytes)) .invalidLength .payload
  let w64 ← addrCheck o.addr o.widthSel
  let (L, fbe, lbe) := countToBe o.inLen
  return memoryEncoded (if w64 then .mwr64 else .mwr32) w64 L fbe lbe
    (memoryHeader o 0b010 w64 L fbe lbe ++ inBytes o.input 0 o.inLen ++ zeroBytes (4 * L - o.inLen))

/-- The high dword of a memory request's address: 0 in a 3DW header (42_memory_rw.md R166). -/
def addrHigh (tlp : List Byte) : Nat := if headerBytes tlp = 12 then 0 else memRead tlp 8 4

/-- The low dword of a memory request's address (42_memory_rw.md R166). -/
def addrLow (tlp : List Byte) : Nat := if headerBytes tlp = 12 then memRead tlp 8 4 else memRead tlp 12 4

/-- What a memory decoder finds in a header: the fields that both write, and the byte count (42_memory_rw.md R166, R167). -/
def memoryDecoded (kind : Kind) (tlp : List Byte) (L n : Nat) : Response :=
  { Response.invalid with
    kind := some kind
    reqId := some (field16 tlp 4)
    tag := some (byteAt tlp 6)
    addr := some (BitVec.ofNat 64 (addrHigh tlp * 2 ^ 32 + addrLow tlp))
    addr64 := some (fourDwFlag tlp)
    lengthDw := some (BitVec.ofNat 11 L)
    byteCount := some (BitVec.ofNat 13 n)
    firstBe := some (firstBeOf tlp)
    lastBe := some (lastBeOf tlp) }

/-- The checks both memory decoders make after the prologue, up to the address: the byte count of the transfer
(42_memory_rw.md R166, R167). -/
def memoryChecks (kind : Kind) (tlp : List Byte) : Except Raise Nat := do
  checkMbz kind tlp
  let n ← beToCount (lengthValue (rawLength tlp)) (firstBeOf tlp) (lastBeOf tlp)
  require (headerBytes tlp != 16 || addrHigh tlp != 0) .invalidAddress .address
  return n

/-- MRD_DECODE's pseudocode, for a TLP of the kind `kind` (42_memory_rw.md R166). -/
def mrdDecodeAs (kind : Kind) (tlp : List Byte) : Except Raise Response := do
  decodePrologue acceptsMrd kind tlp
  let n ← memoryChecks kind tlp
  checkPayload tlp (headerBytes tlp) 0
  return memoryDecoded kind tlp (lengthValue (rawLength tlp)) n

/-- The disabled bytes of the last payload dword are zero (42_memory_rw.md R167). -/
def padClear (tlp : List Byte) (hdr n need : Nat) : Bool :=
  (inBytes tlp (hdr + n) (need - n)).all (· == 0)

/-- MWR_DECODE's pseudocode, for a TLP of the kind `kind` (42_memory_rw.md R167). -/
def mwrDecodeAs (kind : Kind) (tlp : List Byte) : Except Raise Response := do
  decodePrologue acceptsMwr kind tlp
  let n ← memoryChecks kind tlp
  let L := lengthValue (rawLength tlp)
  let hdr := headerBytes tlp
  checkPayload tlp hdr (4 * L)
  require (padClear tlp hdr n (4 * L)) .malformedHeader .payload
  return { memoryDecoded kind tlp L n with
    outLen := some (BitVec.ofNat 13 n)
    outBuf := outBytes (inBytes tlp hdr n) }

/-- MRD_DECODE of a buffer, whose kind byte 0 gives (45_validation.md R230). -/
def mrdDecode (tlp : List Byte) : Except Raise Response := mrdDecodeAs (kindOf (byteAt tlp 0)) tlp

/-- MWR_DECODE of a buffer, whose kind byte 0 gives (45_validation.md R230). -/
def mwrDecode (tlp : List Byte) : Except Raise Response := mwrDecodeAs (kindOf (byteAt tlp 0)) tlp

/-! ## The commands -/

/-- MRD_ENCODE, code 0x10. -/
def execMrdEncode (s : State) : Host.Outcome State Fault Refusal :=
  runCommand .mrdEncode (fun o => respond (mrdEncode o)) s

/-- MWR_ENCODE, code 0x11. -/
def execMwrEncode (s : State) : Host.Outcome State Fault Refusal :=
  runCommand .mwrEncode (fun o => respond (mwrEncode o)) s

/-- MRD_DECODE, code 0x12. -/
def execMrdDecode (s : State) : Host.Outcome State Fault Refusal :=
  runCommand .mrdDecode (fun o => respond (mrdDecode o.input)) s

/-- MWR_DECODE, code 0x13. -/
def execMwrDecode (s : State) : Host.Outcome State Fault Refusal :=
  runCommand .mwrDecode (fun o => respond (mwrDecode o.input)) s

end Sys2Proof.Machine
end

