-- ==== Sys2Proof/Machine/DecodeAny.lean ====
section
/-! DEFINITION. The multi-candidate decode DECODE_ANY (45_validation.md R241) and the dispatch of a TLP on its byte 0
(40_header_classify.md R133), which the TLP_BYTE0 rows of the table are the instructions of. -/

namespace Sys2Proof.Machine

open Sys2Proof

/-- The status of a candidate's result: OK on success (45_validation.md R241). -/
def candidateStatus : Except Raise Response → Status
  | .ok _ => .ok
  | .error e => e.status

/-- The field id of a candidate's result: NONE on success (45_validation.md R241). -/
def candidateField : Except Raise Response → ErrField
  | .ok _ => .noField
  | .error e => e.field

/-- The four results in candidate order 0 to 3. -/
def resultList (c : PerCandidate (Except Raise Response)) : List (Except Raise Response) := [c.mrd, c.mwr, c.cpl, c.cfg]

/-- The candidates that succeeded, with their index and the fields they wrote. -/
def winners (c : PerCandidate (Except Raise Response)) : List (Nat × Response) :=
  (resultList c).zipIdx.filterMap fun row =>
    match row.1 with
    | .ok resp => some (row.2, resp)
    | .error _ => none

/-- The first candidate result that is not UnsupportedType, as the overall error; else `UnsupportedType(FMT_TYPE)`
(45_validation.md R241). -/
def overallError (c : PerCandidate (Except Raise Response)) : Raise :=
  match (resultList c).find? (fun r => candidateStatus r != .unsupportedType) with
  | some r => ⟨candidateStatus r, candidateField r⟩
  | none => ⟨.unsupportedType, .fmtType⟩

/-- The per-candidate fields of a DECODE_ANY response, and WINNER. -/
def withCandidates (c : PerCandidate (Except Raise Response)) (winner : BitVec 3) (resp : Response) : Response :=
  { resp with
    candStatus := some ⟨candidateStatus c.mrd, candidateStatus c.mwr, candidateStatus c.cpl, candidateStatus c.cfg⟩
    candField := some ⟨candidateField c.mrd, candidateField c.mwr, candidateField c.cpl, candidateField c.cfg⟩
    winner := some winner }

/-- What DECODE_ANY answers to the four results. The branch for several winners is unreachable (45_validation.md R242) and
falls, as in R241, under `else` [log 20]. -/
def verdict (c : PerCandidate (Except Raise Response)) : Response :=
  match winners c with
  | [(i, resp)] => withCandidates c (BitVec.ofNat 3 i) (succeed resp)
  | _ => withCandidates c 7 (raiseError (overallError c))

/-- DECODE_ANY's pseudocode: every decoder is tried on the same buffer (45_validation.md R241). -/
def decodeAny (tlp : List Byte) : Response :=
  verdict ⟨mrdDecode tlp, mwrDecode tlp, cplDecode tlp, cfgDecode tlp⟩

/-- DECODE_ANY, code 0x40. -/
def execDecodeAny (s : State) : Host.Outcome State Fault Refusal :=
  runCommand .decodeAny (fun o => decodeAny o.input) s

/-! ## Dispatch on byte 0 -/

/-- The variant decoder of a kind: the "variant ops" column of 30_encoding.md R84; `none` where no decoder accepts the kind. -/
def variantOf (kind : Kind) : Option Candidate :=
  if acceptsMrd kind then some .mrd
  else if acceptsMwr kind then some .mwr
  else if acceptsCpl kind then some .cpl
  else if acceptsCfg kind then some .cfg
  else none

/-- The result of a decoder whose accepted kinds the TLP is not of (40_header_classify.md R131). -/
def unsupported : Except Raise Response := .error ⟨.unsupportedType, .fmtType⟩

/-- The one-shot dispatch of a TLP of the kind `kind` to its variant decoder (40_header_classify.md R133), reported as
DECODE_ANY reports it: the other candidates do not know the kind. A buffer too short to be classified is refused by all. -/
def dispatchKind (kind : Kind) (tlp : List Byte) : Response :=
  if tlp.length < Config.minClassifyBytes then
    let short : Except Raise Response := .error ⟨.malformedHeader, .buffer⟩
    verdict ⟨short, short, short, short⟩
  else
    match variantOf kind with
    | some .mrd => verdict ⟨mrdDecodeAs kind tlp, unsupported, unsupported, unsupported⟩
    | some .mwr => verdict ⟨unsupported, mwrDecodeAs kind tlp, unsupported, unsupported⟩
    | some .cpl => verdict ⟨unsupported, unsupported, cplDecodeAs kind tlp, unsupported⟩
    | some .cfg => verdict ⟨unsupported, unsupported, unsupported, cfgDecodeAs kind tlp⟩
    | none => verdict ⟨unsupported, unsupported, unsupported, unsupported⟩

/-- Run a TLP_BYTE0 row: the captured request is a DECODE_ANY whose buffer holds a TLP of the row's kind [log 5, log 21]. -/
def runTlp (i : Instr) (kind : Kind) (s : State) : Host.Outcome State Fault Refusal :=
  runCommand i (fun o => dispatchKind kind o.input) s

/-! ## The TLP_BYTE0 rows (30_encoding.md R84; 40_header_classify.md R131) -/

/-- MRd32: byte 0 = 0x00; MRD_DECODE's kind (42_memory_rw.md R166). -/
def execMrd32 (s : State) : Host.Outcome State Fault Refusal := runTlp .mrd32 .mrd32 s

/-- MRd64: byte 0 = 0x20; MRD_DECODE's kind (42_memory_rw.md R166). -/
def execMrd64 (s : State) : Host.Outcome State Fault Refusal := runTlp .mrd64 .mrd64 s

/-- MRdLk32: byte 0 = 0x01; no decoder's kind. -/
def execMrdLk32 (s : State) : Host.Outcome State Fault Refusal := runTlp .mrdLk32 .mrdLk32 s

/-- MRdLk64: byte 0 = 0x21; no decoder's kind. -/
def execMrdLk64 (s : State) : Host.Outcome State Fault Refusal := runTlp .mrdLk64 .mrdLk64 s

/-- MWr32: byte 0 = 0x40; MWR_DECODE's kind (42_memory_rw.md R167). -/
def execMwr32 (s : State) : Host.Outcome State Fault Refusal := runTlp .mwr32 .mwr32 s

/-- MWr64: byte 0 = 0x60; MWR_DECODE's kind (42_memory_rw.md R167). -/
def execMwr64 (s : State) : Host.Outcome State Fault Refusal := runTlp .mwr64 .mwr64 s

/-- IORd: byte 0 = 0x02; no decoder's kind. -/
def execIord (s : State) : Host.Outcome State Fault Refusal := runTlp .iord .iord s

/-- IOWr: byte 0 = 0x42; no decoder's kind. -/
def execIowr (s : State) : Host.Outcome State Fault Refusal := runTlp .iowr .iowr s

/-- CfgRd0: byte 0 = 0x04; CFG_DECODE's kind (44_config.md R211). -/
def execCfgRd0 (s : State) : Host.Outcome State Fault Refusal := runTlp .cfgRd0 .cfgRd0 s

/-- CfgWr0: byte 0 = 0x44; CFG_DECODE's kind (44_config.md R211). -/
def execCfgWr0 (s : State) : Host.Outcome State Fault Refusal := runTlp .cfgWr0 .cfgWr0 s

/-- CfgRd1: byte 0 = 0x05; CFG_DECODE's kind (44_config.md R211). -/
def execCfgRd1 (s : State) : Host.Outcome State Fault Refusal := runTlp .cfgRd1 .cfgRd1 s

/-- CfgWr1: byte 0 = 0x45; CFG_DECODE's kind (44_config.md R211). -/
def execCfgWr1 (s : State) : Host.Outcome State Fault Refusal := runTlp .cfgWr1 .cfgWr1 s

/-- TCfgRd: byte 0 = 0x1B; no decoder's kind. -/
def execTcfgRd (s : State) : Host.Outcome State Fault Refusal := runTlp .tcfgRd .tcfgRd s

/-- TCfgWr: byte 0 = 0x5B; no decoder's kind. -/
def execTcfgWr (s : State) : Host.Outcome State Fault Refusal := runTlp .tcfgWr .tcfgWr s

/-- Msg: every routing gives the same kind (30_encoding.md R84); no decoder's kind. -/
def execMsg (routing : BitVec 3) (s : State) : Host.Outcome State Fault Refusal := runTlp (.msg routing) .msg s

/-- MsgD: every routing gives the same kind (30_encoding.md R84); no decoder's kind. -/
def execMsgD (routing : BitVec 3) (s : State) : Host.Outcome State Fault Refusal := runTlp (.msgD routing) .msgD s

/-- Cpl: byte 0 = 0x0A; CPL_DECODE's kind (43_completion.md R193). -/
def execCpl (s : State) : Host.Outcome State Fault Refusal := runTlp .cpl .cpl s

/-- CplD: byte 0 = 0x4A; CPL_DECODE's kind (43_completion.md R193). -/
def execCplD (s : State) : Host.Outcome State Fault Refusal := runTlp .cplD .cplD s

/-- CplLk: byte 0 = 0x0B; no decoder's kind. -/
def execCplLk (s : State) : Host.Outcome State Fault Refusal := runTlp .cplLk .cplLk s

/-- CplDLk: byte 0 = 0x4B; no decoder's kind. -/
def execCplDLk (s : State) : Host.Outcome State Fault Refusal := runTlp .cplDLk .cplDLk s

/-- FetchAdd32: byte 0 = 0x4C; no decoder's kind. -/
def execFetchAdd32 (s : State) : Host.Outcome State Fault Refusal := runTlp .fetchAdd32 .fetchAdd32 s

/-- FetchAdd64: byte 0 = 0x6C; no decoder's kind. -/
def execFetchAdd64 (s : State) : Host.Outcome State Fault Refusal := runTlp .fetchAdd64 .fetchAdd64 s

/-- Swap32: byte 0 = 0x4D; no decoder's kind. -/
def execSwap32 (s : State) : Host.Outcome State Fault Refusal := runTlp .swap32 .swap32 s

/-- Swap64: byte 0 = 0x6D; no decoder's kind. -/
def execSwap64 (s : State) : Host.Outcome State Fault Refusal := runTlp .swap64 .swap64 s

/-- CAS32: byte 0 = 0x4E; no decoder's kind. -/
def execCas32 (s : State) : Host.Outcome State Fault Refusal := runTlp .cas32 .cas32 s

/-- CAS64: byte 0 = 0x6E; no decoder's kind. -/
def execCas64 (s : State) : Host.Outcome State Fault Refusal := runTlp .cas64 .cas64 s

/-- LPrfx: byte 0 = 0x80 to 0x8F; no decoder's kind. -/
def execLprfx (subtype : BitVec 4) (s : State) : Host.Outcome State Fault Refusal := runTlp (.lprfx subtype) .lprfx s

/-- EPrfx: byte 0 = 0x90 to 0x9F; no decoder's kind. -/
def execEprfx (subtype : BitVec 4) (s : State) : Host.Outcome State Fault Refusal := runTlp (.eprfx subtype) .eprfx s

/-- RESERVED_FMT, Fmt 101; no decoder's kind (30_encoding.md R104). -/
def execReservedFmt5 (low : BitVec 5) (s : State) : Host.Outcome State Fault Refusal := runTlp (.reservedFmt5 low) .reservedFmt s

/-- RESERVED_FMT, Fmt 110 and 111; no decoder's kind (30_encoding.md R104). -/
def execReservedFmt67 (low : BitVec 6) (s : State) : Host.Outcome State Fault Refusal := runTlp (.reservedFmt67 low) .reservedFmt s

/-- UNKNOWN: a byte 0 with no kind of its own; no decoder's kind (30_encoding.md R85). -/
def execUnknown (low : BitVec 7) (s : State) : Host.Outcome State Fault Refusal := runTlp (.unknown low) .unknown s

end Sys2Proof.Machine
end

