-- ==== Sys2Proof/Machine/DeviceId.lean ====
section
/-! DEFINITION. The Device/Requester ID encoder and decoder (41_device_id.md). -/

namespace Sys2Proof.Machine

open Sys2Proof

/-- `Pack(b, d, f)` on an in-range triple (41_device_id.md R140). -/
def packId (b d f : Nat) : BitVec 16 := BitVec.ofNat 16 (b * 256 + d * 8 + f)

/-- The bus of a packed ID, bits 15:8 (41_device_id.md R140). -/
def busOf (v : BitVec 16) : BitVec 8 := v.extractLsb' 8 8

/-- The device of a packed ID, bits 7:3 (41_device_id.md R140). -/
def devOf (v : BitVec 16) : BitVec 5 := v.extractLsb' 3 5

/-- The function of a packed ID, bits 2:0 (41_device_id.md R140). -/
def funcOf (v : BitVec 16) : BitVec 3 := v.extractLsb' 0 3

/-- The fields the three ID commands write: BUS, DEV, FUNC and ID16. -/
def idResponse (b d f : Nat) : Response :=
  { Response.invalid with
    bus := some (BitVec.ofNat 8 b)
    dev := some (BitVec.ofNat 5 d)
    func := some (BitVec.ofNat 3 f)
    id16 := some (packId b d f) }

/-- DEVID_PACK's pseudocode (41_device_id.md R141). -/
def devidPack (o : Operands) : Except Raise Response := do
  require (decide (o.bus ≤ 255)) .invalidDeviceIdFormat .devidBus
  require (decide (o.dev ≤ 31)) .invalidDeviceIdFormat .devidDev
  require (decide (o.func ≤ 7)) .invalidDeviceIdFormat .devidFunc
  return idResponse o.bus o.dev o.func

/-- DEVID_UNPACK's pseudocode (41_device_id.md R142). -/
def devidUnpack (o : Operands) : Response :=
  { Response.invalid with
    bus := some (busOf o.id16)
    dev := some (devOf o.id16)
    func := some (funcOf o.id16)
    id16 := some o.id16 }

/-! ## The text form (41_device_id.md R143) -/

/-- The value of an ASCII hexadecimal digit of either case. -/
def hexValue (c : Byte) : Option Nat :=
  if 0x30 ≤ c.toNat ∧ c.toNat ≤ 0x39 then some (c.toNat - 0x30)
  else if 0x61 ≤ c.toNat ∧ c.toNat ≤ 0x66 then some (c.toNat - 0x61 + 10)
  else if 0x41 ≤ c.toNat ∧ c.toNat ≤ 0x46 then some (c.toNat - 0x41 + 10)
  else none

/-- `field2`, one or two hexadecimal digits, and what follows it. The longest match is the only one, since no separator is
a hexadecimal digit. -/
def takeField2 : List Byte → Option (Nat × List Byte)
  | [] => none
  | [c] => (hexValue c).map fun x => (x, [])
  | c :: c' :: rest =>
    match hexValue c, hexValue c' with
    | some x, some y => some (x * 16 + y, rest)
    | some x, none => some (x, c' :: rest)
    | none, _ => none

/-- The byte `c` in front, and what follows it. -/
def takeByte (c : Byte) : List Byte → Option (List Byte)
  | [] => none
  | b :: rest => if b = c then some rest else none

/-- `digit` at the end of the string. -/
def takeLastDigit : List Byte → Option Nat
  | [c] => hexValue c
  | _ => none

/-- The numbers of a string of the form `field2 ":" field2 "." digit` (41_device_id.md R143). -/
def parseId (text : List Byte) : Option (Nat × Nat × Nat) := do
  let (b, afterBus) ← takeField2 text
  let afterColon ← takeByte 0x3A afterBus
  let (d, afterDev) ← takeField2 afterColon
  let afterDot ← takeByte 0x2E afterDev
  let f ← takeLastDigit afterDot
  return (b, d, f)

/-- DEVID_PARSE's pseudocode (41_device_id.md R144). -/
def devidParse (o : Operands) : Except Raise Response :=
  match parseId o.input with
  | none => .error ⟨.invalidDeviceIdFormat, .devidString⟩
  | some (b, d, f) => do
    require (decide (d ≤ 31)) .invalidDeviceIdFormat .devidDev
    require (decide (f ≤ 7)) .invalidDeviceIdFormat .devidFunc
    return idResponse b d f

/-- The lower-case ASCII digit of a value below 16 (41_device_id.md R145). -/
def hexDigit (v : Nat) : Byte := if v < 10 then BitVec.ofNat 8 (0x30 + v) else BitVec.ofNat 8 (0x61 + (v - 10))

/-- `hex2(v)`: two lower-case digits (41_device_id.md R145). -/
def hex2 (v : Nat) : List Byte := [hexDigit (v / 16), hexDigit (v % 16)]

/-- The canonical text of a packed ID (41_device_id.md R145). -/
def formatId (v : BitVec 16) : List Byte :=
  hex2 (busOf v).toNat ++ [0x3A] ++ hex2 (devOf v).toNat ++ [0x2E] ++ [hexDigit (funcOf v).toNat]

/-- DEVID_FORMAT's pseudocode (41_device_id.md R145). -/
def devidFormat (o : Operands) : Response :=
  { Response.invalid with
    outLen := some 7
    outBuf := outBytes (formatId o.id16) }

/-! ## The commands -/

/-- DEVID_PACK, code 0x02. -/
def execDevidPack (s : State) : Host.Outcome State Fault Refusal :=
  runCommand .devidPack (fun o => respond (devidPack o)) s

/-- DEVID_UNPACK, code 0x03. -/
def execDevidUnpack (s : State) : Host.Outcome State Fault Refusal :=
  runCommand .devidUnpack (fun o => succeed (devidUnpack o)) s

/-- DEVID_PARSE, code 0x04. -/
def execDevidParse (s : State) : Host.Outcome State Fault Refusal :=
  runCommand .devidParse (fun o => respond (devidParse o)) s

/-- DEVID_FORMAT, code 0x05. -/
def execDevidFormat (s : State) : Host.Outcome State Fault Refusal :=
  runCommand .devidFormat (fun o => succeed (devidFormat o)) s

end Sys2Proof.Machine
end

