-- ==== Sys2Proof/Machine/Header.lean ====
section
/-! DEFINITION. The Header Model: CLASSIFY (40_header_classify.md R132), and the answer to a CMD value that is no command's
code (60_exceptions.md R252). -/

namespace Sys2Proof.Machine

open Sys2Proof

/-- CLASSIFY's pseudocode (40_header_classify.md R132). -/
def classify (o : Operands) : Except Raise Response := do
  require (decide (Config.minClassifyBytes ≤ o.inLen)) .malformedHeader .buffer
  let b0 := byteAt o.input 0
  return { Response.invalid with
    fmt := some (fmtOf b0)
    type := some (typeOf b0)
    kind := some (kindOf b0)
    hasPayload := some (hasPayloadFlag (fmtOf b0))
    addr64 := some (addr64Flag (fmtOf b0))
    hdrDw := some (headerDw (fmtOf b0)) }

/-- CLASSIFY, code 0x01. -/
def execClassify (s : State) : Host.Outcome State Fault Refusal :=
  runCommand .classify (fun o => respond (classify o)) s

/-- ILLEGAL_CMD: `IllegalCommand(CMD)`, the first check of `Exec` (45_validation.md R240, 60_exceptions.md R252). -/
def execIllegalCmd (cmd : BitVec 8) (s : State) : Host.Outcome State Fault Refusal :=
  complete (.illegalCmd cmd) (fun _ => raiseError ⟨.illegalCommand, .cmd⟩) s

end Sys2Proof.Machine
end

