-- ==== Sys2Proof/Machine/Dispatch.lean ====
section
/-! DEFINITION. The dispatch of an instruction to its meaning: one arm per constructor of `Instr`, in the table's order. -/

namespace Sys2Proof.Machine

open Sys2Proof

def exec (i : Instr) (s : State) : Host.Outcome State Fault Refusal :=
  match i with
  | .classify => Sys2Proof.Machine.execClassify s
  | .devidPack => Sys2Proof.Machine.execDevidPack s
  | .devidUnpack => Sys2Proof.Machine.execDevidUnpack s
  | .devidParse => Sys2Proof.Machine.execDevidParse s
  | .devidFormat => Sys2Proof.Machine.execDevidFormat s
  | .mrdEncode => Sys2Proof.Machine.execMrdEncode s
  | .mwrEncode => Sys2Proof.Machine.execMwrEncode s
  | .mrdDecode => Sys2Proof.Machine.execMrdDecode s
  | .mwrDecode => Sys2Proof.Machine.execMwrDecode s
  | .cplEncode => Sys2Proof.Machine.execCplEncode s
  | .cplDecode => Sys2Proof.Machine.execCplDecode s
  | .cfgEncode => Sys2Proof.Machine.execCfgEncode s
  | .cfgDecode => Sys2Proof.Machine.execCfgDecode s
  | .decodeAny => Sys2Proof.Machine.execDecodeAny s
  | .illegalCmd cmd => Sys2Proof.Machine.execIllegalCmd cmd s
  | .mrd32 => Sys2Proof.Machine.execMrd32 s
  | .mrd64 => Sys2Proof.Machine.execMrd64 s
  | .mrdLk32 => Sys2Proof.Machine.execMrdLk32 s
  | .mrdLk64 => Sys2Proof.Machine.execMrdLk64 s
  | .mwr32 => Sys2Proof.Machine.execMwr32 s
  | .mwr64 => Sys2Proof.Machine.execMwr64 s
  | .iord => Sys2Proof.Machine.execIord s
  | .iowr => Sys2Proof.Machine.execIowr s
  | .cfgRd0 => Sys2Proof.Machine.execCfgRd0 s
  | .cfgWr0 => Sys2Proof.Machine.execCfgWr0 s
  | .cfgRd1 => Sys2Proof.Machine.execCfgRd1 s
  | .cfgWr1 => Sys2Proof.Machine.execCfgWr1 s
  | .tcfgRd => Sys2Proof.Machine.execTcfgRd s
  | .tcfgWr => Sys2Proof.Machine.execTcfgWr s
  | .msg routing => Sys2Proof.Machine.execMsg routing s
  | .msgD routing => Sys2Proof.Machine.execMsgD routing s
  | .cpl => Sys2Proof.Machine.execCpl s
  | .cplD => Sys2Proof.Machine.execCplD s
  | .cplLk => Sys2Proof.Machine.execCplLk s
  | .cplDLk => Sys2Proof.Machine.execCplDLk s
  | .fetchAdd32 => Sys2Proof.Machine.execFetchAdd32 s
  | .fetchAdd64 => Sys2Proof.Machine.execFetchAdd64 s
  | .swap32 => Sys2Proof.Machine.execSwap32 s
  | .swap64 => Sys2Proof.Machine.execSwap64 s
  | .cas32 => Sys2Proof.Machine.execCas32 s
  | .cas64 => Sys2Proof.Machine.execCas64 s
  | .lprfx subtype => Sys2Proof.Machine.execLprfx subtype s
  | .eprfx subtype => Sys2Proof.Machine.execEprfx subtype s
  | .reservedFmt5 low => Sys2Proof.Machine.execReservedFmt5 low s
  | .reservedFmt67 low => Sys2Proof.Machine.execReservedFmt67 low s
  | .unknown low => Sys2Proof.Machine.execUnknown low s

end Sys2Proof.Machine
end

