-- ==== Sys2Proof/Machine/Handshake.lean ====
section
/-! DEFINITION. The request/response handshake (10_state.md R29 to R34) and reset (70_reset_and_hazards.md R280): what each
host action does, what the block does when the step is its own, and how the block fetches the operation it runs. -/

namespace Sys2Proof.Machine

open Sys2Proof

/-! ## Host writes (10_state.md R23) -/

/-- The request register file after a host write; the bytes of IN_BUF are written one at a time (20_memory.md R66). -/
def writeRequest (r : RequestFile) : HostWrite → RequestFile
  | .cmd v => { r with cmd := some v }
  | .inLen v => { r with inLen := some v }
  | .inBuf offset v => { r with inBuf := writeByte r.inBuf offset.toNat v }
  | .reqId v => { r with reqId := some v }
  | .tag v => { r with tag := some v }
  | .addr v => { r with addr := some v }
  | .widthSel v => { r with widthSel := some v }
  | .byteCount v => { r with byteCount := some v }
  | .cplId v => { r with cplId := some v }
  | .cplStatus v => { r with cplStatus := some v }
  | .lowerAddr v => { r with lowerAddr := some v }
  | .hasData v => { r with hasData := some v }
  | .cfgType v => { r with cfgType := some v }
  | .cfgWrite v => { r with cfgWrite := some v }
  | .tgtId v => { r with tgtId := some v }
  | .regIndex v => { r with regIndex := some v }
  | .firstBe v => { r with firstBe := some v }
  | .bus v => { r with bus := some v }
  | .dev v => { r with dev := some v }
  | .func v => { r with func := some v }
  | .id16 v => { r with id16 := some v }

/-- The write names a field or a byte that exists: of the 13-bit offsets, IN_BUF has 0 to MAX_IN_BYTES - 1
(20_memory.md R60). -/
def writeExists : HostWrite → Bool
  | .inBuf offset _ => decide (offset.toNat < Config.maxInBytes)
  | _ => true

/-- A host write: it stores the value and has no other effect, in any phase (20_memory.md R67, 10_state.md R24). -/
def hostWrite (w : HostWrite) (s : State) : Host.Outcome State Fault Refusal :=
  if writeExists w then .next { s with req := writeRequest s.req w } else .fault .noSuchByte

/-! ## START (10_state.md R31, R32) -/

/-- The instruction a request file's CMD selects, for the fields its command reads (10_state.md R25). -/
def requestInstr (r : RequestFile) : Option Instr := r.cmd.map decodeCommand

/-- Every field the request's command reads has been written (10_state.md R25). -/
def requestReady (r : RequestFile) : Bool :=
  match requestInstr r with
  | some i => fieldsWritten r (fieldsRead i)
  | none => false

/-- START in phase IDLE or DONE captures the request and clears every valid bit; in phase BUSY it is ignored; where the
command reads a field the host never wrote it is a fault with no response (10_state.md R25, R31, R32). -/
def hostStart (s : State) : Host.Outcome State Fault Refusal :=
  if s.phase = .busy then .next s
  else if requestReady s.req then
    .next { s with
      captured := some s.req
      resp := .invalid
      phase := .busy
      remaining := Config.latency s.req }
  else .fault .unwrittenField

/-! ## Host reads (10_state.md R26, R30, R34) -/

/-- The number of a STATUS code (60_exceptions.md R250). -/
def statusCode : Status → Nat
  | .ok => 0
  | .malformedHeader => 1
  | .truncatedBuffer => 2
  | .lengthMismatch => 3
  | .invalidAddress => 4
  | .invalidLength => 5
  | .invalidDeviceIdFormat => 6
  | .invalidCompletionStatus => 7
  | .unsupportedType => 8
  | .illegalCommand => 9

/-- The number of a field id (60_exceptions.md R251). -/
def errFieldCode : ErrField → Nat
  | .noField => 0
  | .cmd => 1
  | .buffer => 2
  | .fmtType => 3
  | .reservedBits => 4
  | .length => 5
  | .firstBe => 6
  | .lastBe => 7
  | .address => 8
  | .widthSel => 9
  | .payload => 10
  | .cplStatus => 11
  | .byteCount => 12
  | .regIndex => 13
  | .devidBus => 14
  | .devidDev => 15
  | .devidFunc => 16
  | .devidString => 17

/-- The number of a KIND (30_encoding.md R84). -/
def kindCode : Kind → Nat
  | .unknown => 0
  | .mrd32 => 1
  | .mrd64 => 2
  | .mrdLk32 => 3
  | .mrdLk64 => 4
  | .mwr32 => 5
  | .mwr64 => 6
  | .iord => 7
  | .iowr => 8
  | .cfgRd0 => 9
  | .cfgWr0 => 10
  | .cfgRd1 => 11
  | .cfgWr1 => 12
  | .tcfgRd => 13
  | .tcfgWr => 14
  | .msg => 15
  | .msgD => 16
  | .cpl => 17
  | .cplD => 18
  | .cplLk => 19
  | .cplDLk => 20
  | .fetchAdd32 => 21
  | .fetchAdd64 => 22
  | .swap32 => 23
  | .swap64 => 24
  | .cas32 => 25
  | .cas64 => 26
  | .lprfx => 27
  | .eprfx => 28
  | .reservedFmt => 29

/-- The number of a PHASE (10_state.md R30). -/
def phaseCode : Phase → Nat
  | .idle => 0
  | .busy => 1
  | .done => 2

/-- The value of one candidate. -/
def candidateValue {α : Type} (p : PerCandidate α) : Candidate → α
  | .mrd => p.mrd
  | .mwr => p.mwr
  | .cpl => p.cpl
  | .cfg => p.cfg

/-- The value of a response field, as the number the host reads; `none` where its valid bit is clear. A byte of OUT_BUF is
valid below OUT_LEN (10_state.md R26). -/
def respValue (resp : Response) : RespField → Option Nat
  | .status => resp.status.map statusCode
  | .errField => resp.errField.map errFieldCode
  | .kind => resp.kind.map kindCode
  | .fmt => resp.fmt.map BitVec.toNat
  | .type => resp.type.map BitVec.toNat
  | .hasPayload => resp.hasPayload.map Bool.toNat
  | .addr64 => resp.addr64.map Bool.toNat
  | .hdrDw => resp.hdrDw.map BitVec.toNat
  | .reqId => resp.reqId.map BitVec.toNat
  | .tag => resp.tag.map BitVec.toNat
  | .addr => resp.addr.map BitVec.toNat
  | .lengthDw => resp.lengthDw.map BitVec.toNat
  | .byteCount => resp.byteCount.map BitVec.toNat
  | .firstBe => resp.firstBe.map BitVec.toNat
  | .lastBe => resp.lastBe.map BitVec.toNat
  | .cplId => resp.cplId.map BitVec.toNat
  | .cplStatus => resp.cplStatus.map BitVec.toNat
  | .lowerAddr => resp.lowerAddr.map BitVec.toNat
  | .hasData => resp.hasData.map Bool.toNat
  | .cfgType => resp.cfgType.map Bool.toNat
  | .cfgWrite => resp.cfgWrite.map Bool.toNat
  | .tgtId => resp.tgtId.map BitVec.toNat
  | .regIndex => resp.regIndex.map BitVec.toNat
  | .regNum => resp.regNum.map BitVec.toNat
  | .extReg => resp.extReg.map BitVec.toNat
  | .bus => resp.bus.map BitVec.toNat
  | .dev => resp.dev.map BitVec.toNat
  | .func => resp.func.map BitVec.toNat
  | .id16 => resp.id16.map BitVec.toNat
  | .outLen => resp.outLen.map BitVec.toNat
  | .outBuf offset => (readByte resp.outBuf offset.toNat).map BitVec.toNat
  | .candStatus c => resp.candStatus.map fun p => statusCode (candidateValue p c)
  | .candField c => resp.candField.map fun p => errFieldCode (candidateValue p c)
  | .winner => resp.winner.map BitVec.toNat

/-- A host read of a response field: no side effect on the block (20_memory.md R67), a fault where the field is invalid
(10_state.md R26, R34). -/
def hostRead (f : RespField) (s : State) : Host.Outcome State Fault Refusal :=
  match respValue s.resp f with
  | some v => .next { s with readData := some v }
  | none => .fault .invalidRead

/-- A host read of PHASE (10_state.md R30). -/
def hostReadPhase (s : State) : Host.Outcome State Fault Refusal :=
  .next { s with readData := some (phaseCode s.phase) }

/-- A host read of DONE (10_state.md R28). -/
def hostReadDone (s : State) : Host.Outcome State Fault Refusal :=
  .next { s with readData := some (doneFlag s).toNat }

/-! ## Reset (70_reset_and_hazards.md R280) -/

/-- Reset, in any phase: the block is as `State.reset` leaves it; what is the host's own, its actions to come and what it
last read, stays [log 23]. -/
def hostReset (s : State) : Host.Outcome State Fault Refusal :=
  .next { State.reset with hostQueue := s.hostQueue, readData := s.readData }

/-! ## The block's own step -/

/-- How many bytes of a TLP the fetch takes: byte 0, where the buffer holds enough to classify (45_validation.md R230) and
no more than the block takes (45_validation.md R240). -/
def tlpPresent (r : RequestFile) : Bool := decide (Config.minClassifyBytes ≤ meaningfulBytes r)

/-- The image of the operation a captured request selects: its CMD byte, and byte 0 of the TLP in the input buffer of a
DECODE_ANY (40_header_classify.md R133). [DESIGN CHOICE, log 5] -/
def requestImage (r : RequestFile) : Except Fault (List Byte) :=
  match r.cmd with
  | none => .error .unwrittenField
  | some cmd =>
    if cmd = decodeAnyCode ∧ tlpPresent r then
      match readByte r.inBuf 0 with
      | some b0 => .ok [cmd, b0]
      | none => .error .unwrittenField
    else .ok [cmd]

/-- The image of the running operation. -/
def fetchImage (s : State) : Except Fault (List Byte) :=
  match s.captured with
  | none => .error .noRequest
  | some r => requestImage r

/-- The finish step: fetch the captured operation, decode it, run it (10_state.md R33). -/
def finish (s : State) : Host.Outcome State Fault Refusal :=
  match fetchImage s with
  | .error e => .fault e
  | .ok image =>
    match decode image with
    | .error e => .refused (.undecodable e)
    | .ok i => exec i s

/-- The block's own step: in IDLE and DONE it stays (60_exceptions.md R264); in BUSY it waits out the latency and then
finishes (10_state.md R33). -/
def blockStep (s : State) : Host.Outcome State Fault Refusal :=
  match s.phase with
  | .idle | .done => .next s
  | .busy => if 1 < s.remaining then .next { s with remaining := s.remaining - 1 } else finish s

/-- What one host action does; the step of a `wait` is the block's. -/
def hostStep (a : HostAction) (s : State) : Host.Outcome State Fault Refusal :=
  match a with
  | .write w => hostWrite w s
  | .start => hostStart s
  | .read f => hostRead f s
  | .readPhase => hostReadPhase s
  | .readDone => hostReadDone s
  | .reset => hostReset s
  | .wait => blockStep s

/-- The host's next action, where there is one; else the block's own step [DESIGN CHOICE, log 1]. -/
def machineStep (s : State) : Host.Outcome State Fault Refusal :=
  match s.hostQueue with
  | [] => blockStep s
  | a :: rest => hostStep a { s with hostQueue := rest }

/-! ## A table word as the running operation (log 8) -/

/-- A captured request that selects the operation of an image and gives every operand field 0: the CMD byte, and the bytes
of a TLP as the input buffer, with zeros up to the longest header. -/
def zeroRequest (cmd : Byte) (tlp : List Byte) : RequestFile where
  cmd := some cmd
  inLen := some (BitVec.ofNat 13 tlp.length)
  inBuf := cellsFrom 0 tlp
  reqId := some 0
  tag := some 0
  addr := some 0
  widthSel := some 0
  byteCount := some 0
  cplId := some 0
  cplStatus := some 0
  lowerAddr := some 0
  hasData := some false
  cfgType := some false
  cfgWrite := some false
  tgtId := some 0
  regIndex := some 0
  firstBe := some 0
  bus := some 0
  dev := some 0
  func := some 0
  id16 := some 0

/-- The request of a table word: a CMD word with no input, or a DECODE_ANY whose 16 bytes of input are the word's bytes,
first byte lowest, and zeros. -/
def wordRequest (nbits w : Nat) : RequestFile :=
  if isCommandWord nbits w then zeroRequest (BitVec.ofNat 8 w) []
  else zeroRequest decodeAnyCode (wordBytes 16 w)

end Sys2Proof.Machine
end

