-- ==== Sys2Proof/Machine/Step.lean ====
section
/-! DEFINITION. One step of the machine, and the state that runs a table word at its next step. -/

namespace Sys2Proof.Machine

open Sys2Proof

/-- One step: the host's next action, or the block's own step (Machine/Handshake.lean). -/
def step (s : State) : Host.Outcome State Fault Refusal := machineStep s

/-- `s` with the word's request captured, in phase BUSY and one of the block's steps before its finish, and that step next:
it stands for the writes and the START of a host (log 7, log 8). START clears the response (10_state.md R31). -/
def State.withFetchWord (s : State) (nbits w : Nat) : State :=
  { s with
    captured := some (wordRequest nbits w)
    resp := .invalid
    phase := .busy
    remaining := 1
    hostQueue := .wait :: s.hostQueue }

end Sys2Proof.Machine
end

