-- ==== Sys2Proof/Safety.lean ====
section
/-! DEFINITION. The terms the statements use: what a request holds, what an operation delivers, the TLPs of the spec written
bit field by bit field, and the invariant of a run. Nothing here is used by the machine. -/

namespace Sys2Proof.Safety

open Sys2Proof Sys2Proof.Machine

/-! ## Requests and responses -/

/-- The captured request of `s` is `r`, and its input buffer holds exactly `bytes` (10_state.md R23, R31). -/
structure HoldsInput (s : State) (r : RequestFile) (bytes : List Byte) : Prop where
  captured : s.captured = some r
  cmd : r.cmd.isSome = true
  len : r.inLen = some (BitVec.ofNat 13 bytes.length)
  bound : bytes.length ≤ 4112
  bytes : ∀ k, k < bytes.length → readByte r.inBuf k = bytes[k]?

/-- The captured request of `s` is `r`, its CMD is written and its IN_LEN is `n`, which the block takes (10_state.md R23). -/
structure HoldsLength (s : State) (r : RequestFile) (n : Nat) : Prop where
  captured : s.captured = some r
  cmd : r.cmd.isSome = true
  len : ∃ l : BitVec 13, r.inLen = some l ∧ l.toNat = n
  bound : n ≤ 4112

/-- From `s` the operation has delivered `t`: the response is `resp` with exactly the bytes `out` in OUT_BUF, PHASE is DONE
(10_state.md R33), and nothing else has changed. -/
def Delivers (s t : State) (resp : Response) (out : List Byte) : Prop :=
  t = { s with resp := { resp with outBuf := t.resp.outBuf }, phase := .done, remaining := 0 } ∧
  ∀ a, readByte t.resp.outBuf a = out[a]?

/-- STATUS and ERR_FIELD are valid and every other response field is invalid (60_exceptions.md R254). -/
def errorResponse (st : Status) (f : ErrField) : Response :=
  { Response.invalid with status := some st, errField := some f }

/-- The outcome is the delivery of the error `st(f)` from `s`. -/
def Raises (s : State) (o : Host.Outcome State Fault Refusal) (st : Status) (f : ErrField) : Prop :=
  ∃ t, o = .next t ∧ Delivers s t (errorResponse st f) []

/-- The outcome is a next state whose response is a success. -/
def Succeeds (o : Host.Outcome State Fault Refusal) (t : State) : Prop := o = .next t ∧ t.resp.status = some .ok

/-- A response with STATUS = OK and ERR_FIELD = NONE and no other field valid (00_scope.md R13). -/
def okResponse : Response := { Response.invalid with status := some .ok, errField := some .noField }

/-- The per-candidate fields of DECODE_ANY, where the candidate `c` answered `st(f)` and each other one
`UnsupportedType(FMT_TYPE)` (45_validation.md R241, R242). -/
def withVerdict (c : Candidate) (st : Status) (f : ErrField) (winner : BitVec 3) (resp : Response) : Response :=
  let one {α : Type} (x y : α) (c' : Candidate) : α := if c' = c then x else y
  { resp with
    candStatus := some ⟨one st .unsupportedType .mrd, one st .unsupportedType .mwr, one st .unsupportedType .cpl,
      one st .unsupportedType .cfg⟩
    candField := some ⟨one f .fmtType .mrd, one f .fmtType .mwr, one f .fmtType .cpl, one f .fmtType .cfg⟩
    winner := some winner }

/-- OUT_LEN and OUT_BUF of a response hold exactly `bytes` (10_state.md R26). -/
structure OutputIs (resp : Response) (bytes : List Byte) : Prop where
  len : resp.outLen = some (BitVec.ofNat 13 bytes.length)
  bound : bytes.length ≤ 4112
  bytes : ∀ k, readByte resp.outBuf k = bytes[k]?

/-- The next step of `s` is the finish of its running operation: the host has no action to come, PHASE is BUSY and the
latency is over (10_state.md R33; log 1, log 2). -/
structure Finishing (s : State) : Prop where
  queue : s.hostQueue = []
  phase : s.phase = .busy
  remaining : s.remaining ≤ 1

/-- The next step of `s` is the host's action `a`, and `rest` is to come after it (log 1). -/
def HostNext (s : State) (a : HostAction) (rest : List HostAction) : Prop := s.hostQueue = a :: rest

/-- `k` steps of the machine. -/
def runSteps (k : Nat) (s : State) : Host.Outcome State Fault Refusal := Host.Core.run Sys2Proof.core k s

/-! ## The numbers a host reads, and what its reads answer -/

/-- The STATUS codes, number by number (60_exceptions.md R250). -/
def statusTable : List (Status × Nat) :=
  [(.ok, 0), (.malformedHeader, 1), (.truncatedBuffer, 2), (.lengthMismatch, 3), (.invalidAddress, 4), (.invalidLength, 5),
   (.invalidDeviceIdFormat, 6), (.invalidCompletionStatus, 7), (.unsupportedType, 8), (.illegalCommand, 9)]

/-- The field ids, number by number (60_exceptions.md R251). -/
def errFieldTable : List (ErrField × Nat) :=
  [(.noField, 0), (.cmd, 1), (.buffer, 2), (.fmtType, 3), (.reservedBits, 4), (.length, 5), (.firstBe, 6), (.lastBe, 7),
   (.address, 8), (.widthSel, 9), (.payload, 10), (.cplStatus, 11), (.byteCount, 12), (.regIndex, 13), (.devidBus, 14),
   (.devidDev, 15), (.devidFunc, 16), (.devidString, 17)]

/-- The KIND codes, number by number (30_encoding.md R84). -/
def kindTable : List (Kind × Nat) :=
  [(.unknown, 0), (.mrd32, 1), (.mrd64, 2), (.mrdLk32, 3), (.mrdLk64, 4), (.mwr32, 5), (.mwr64, 6), (.iord, 7), (.iowr, 8),
   (.cfgRd0, 9), (.cfgWr0, 10), (.cfgRd1, 11), (.cfgWr1, 12), (.tcfgRd, 13), (.tcfgWr, 14), (.msg, 15), (.msgD, 16),
   (.cpl, 17), (.cplD, 18), (.cplLk, 19), (.cplDLk, 20), (.fetchAdd32, 21), (.fetchAdd64, 22), (.swap32, 23), (.swap64, 24),
   (.cas32, 25), (.cas64, 26), (.lprfx, 27), (.eprfx, 28), (.reservedFmt, 29)]

/-- A one-bit field reads as 1 where it is set and as 0 where it is clear (10_state.md R26). -/
def bitNumber (b : Bool) : Nat := if b then 1 else 0

/-- What the host's next action, a read of `f`, does from `s`: where the field holds `v` it answers `v` and changes nothing of
the block, and where the field holds no value it is a fault (10_state.md R26; 20_memory.md R67; log 11). -/
def ReadGives (s : State) (rest : List HostAction) (f : RespField) (value : Option Nat) : Prop :=
  HostNext s (.read f) rest →
    (∀ v, value = some v → step s = .next { s with readData := some v, hostQueue := rest }) ∧
    (value = none → step s = .fault .invalidRead)

/-! ## Which operands are missing -/

/-- The CMD field of `r` is one of `codes`. -/
def CmdIn (r : RequestFile) (codes : List Byte) : Prop := ∃ c ∈ codes, r.cmd = some c

/-- The buffer of `r` is one the block takes, and byte `k` of it, below IN_LEN, was never written (10_state.md R23, R25). -/
def ByteMissing (r : RequestFile) (k : Nat) : Prop :=
  ∃ l, r.inLen = some l ∧ l.toNat ≤ 4112 ∧ k < l.toNat ∧ readByte r.inBuf k = none

/-- A field that the command of `r` reads was never written: the "read by" column of 10_state.md R23, with CLASSIFY reading
byte 0 of a buffer of at least 4 bytes (40_header_classify.md R132; log 3). -/
def MissingOperand (r : RequestFile) : Prop :=
  r.cmd = none ∨ r.inLen = none ∨
  (CmdIn r [0x10, 0x11, 0x20, 0x30] ∧ (r.reqId = none ∨ r.tag = none)) ∨
  (CmdIn r [0x10, 0x11] ∧ (r.addr = none ∨ r.widthSel = none)) ∨
  (CmdIn r [0x10, 0x20] ∧ r.byteCount = none) ∨
  (CmdIn r [0x20] ∧ (r.cplId = none ∨ r.cplStatus = none ∨ r.lowerAddr = none ∨ r.hasData = none)) ∨
  (CmdIn r [0x30] ∧ (r.cfgType = none ∨ r.cfgWrite = none ∨ r.tgtId = none ∨ r.regIndex = none ∨ r.firstBe = none)) ∨
  (CmdIn r [0x02] ∧ (r.bus = none ∨ r.dev = none ∨ r.func = none)) ∨
  (CmdIn r [0x03, 0x05] ∧ r.id16 = none) ∨
  (CmdIn r [0x04, 0x11, 0x12, 0x13, 0x20, 0x21, 0x30, 0x31, 0x40] ∧ ∃ k, ByteMissing r k) ∨
  (CmdIn r [0x01] ∧ (∃ l, r.inLen = some l ∧ 4 ≤ l.toNat) ∧ ByteMissing r 0)

/-! ## TLPs, bit field by bit field (30_encoding.md sections 3 and 4) -/

/-- The big-endian bytes of a 16-bit field (20_memory.md R62). -/
def be16 (v : BitVec 16) : List Byte := [v.extractLsb' 8 8, v.extractLsb' 0 8]

/-- The big-endian bytes of a 32-bit field (20_memory.md R62). -/
def be32 (v : BitVec 32) : List Byte := be16 (v.extractLsb' 16 16) ++ be16 (v.extractLsb' 0 16)

/-- The big-endian bytes of a 64-bit field (20_memory.md R62). -/
def be64 (v : BitVec 64) : List Byte := be32 (v.extractLsb' 32 32) ++ be32 (v.extractLsb' 0 32)

/-- The dwords that `n` bytes take (30_encoding.md R87). -/
def dwords (n : Nat) : Nat := (n + 3) / 4

/-- Bytes 2 and 3 of a header: six must-be-zero bits and the 10-bit Length field (30_encoding.md R86, R87). -/
def lengthBytes (L : Nat) : List Byte := be16 (0#6 ++ BitVec.ofNat 10 L)

/-- First DW BE of a transfer of `n` bytes from a dword-aligned address (30_encoding.md R99). -/
def firstEnables (n : Nat) : BitVec 4 :=
  if n = 1 then 0b0001 else if n = 2 then 0b0011 else if n = 3 then 0b0111 else 0b1111

/-- Last DW BE of a transfer of `n` bytes from a dword-aligned address (30_encoding.md R98, R99). -/
def lastEnables (n : Nat) : BitVec 4 :=
  if n ≤ 4 then 0b0000
  else if n % 4 = 1 then 0b0001 else if n % 4 = 2 then 0b0011 else if n % 4 = 3 then 0b0111 else 0b1111

/-- The address needs the 4DW format (42_memory_rw.md R163). -/
def needs64 (a : BitVec 64) : Bool := decide (2 ^ 32 ≤ a.toNat)

/-- The header of a memory request for `n` bytes at `a`: byte 0 is `b32` with a 32-bit and `b64` with a 64-bit address
(30_encoding.md R84, R86, R88 to R90). -/
def memoryTlp (b32 b64 : Byte) (n : Nat) (id : BitVec 16) (tag : Byte) (a : BitVec 64) : List Byte :=
  [if needs64 a then b64 else b32, 0x00] ++ lengthBytes (dwords n) ++ be16 id ++ [tag, lastEnables n ++ firstEnables n] ++
    if needs64 a then be64 a else be32 (a.setWidth 32)

/-- A Memory Read request (30_encoding.md R84). -/
def readTlp (n : Nat) (id : BitVec 16) (tag : Byte) (a : BitVec 64) : List Byte := memoryTlp 0x00 0x20 n id tag a

/-- A Memory Write request with its payload and the zero pad (42_memory_rw.md R165). -/
def writeTlp (payload : List Byte) (id : BitVec 16) (tag : Byte) (a : BitVec 64) : List Byte :=
  memoryTlp 0x40 0x60 payload.length id tag a ++ payload ++
    List.replicate (4 * dwords payload.length - payload.length) 0x00

/-- A completion without data (30_encoding.md R91, R92). -/
def cplTlp (cid : BitVec 16) (st : BitVec 3) (bc : Nat) (id : BitVec 16) (tag : Byte) (la : BitVec 7) : List Byte :=
  [0x0A, 0x00] ++ lengthBytes 0 ++ be16 cid ++ be16 (st ++ 0#1 ++ BitVec.ofNat 12 bc) ++ be16 id ++ [tag, 0#1 ++ la]

/-- A completion with data (30_encoding.md R91, R92). -/
def cplDTlp (cid : BitVec 16) (st : BitVec 3) (bc : Nat) (id : BitVec 16) (tag : Byte) (la : BitVec 7)
    (payload : List Byte) : List Byte :=
  [0x4A, 0x00] ++ lengthBytes (payload.length / 4) ++ be16 cid ++ be16 (st ++ 0#1 ++ BitVec.ofNat 12 bc) ++ be16 id ++
    [tag, 0#1 ++ la] ++ payload

/-- Byte 0 of a configuration request (44_config.md R210). -/
def cfgByte0 (type1 write : Bool) : Byte :=
  match write, type1 with
  | false, false => 0x04
  | false, true => 0x05
  | true, false => 0x44
  | true, true => 0x45

/-- The kind of a configuration request (44_config.md R210). -/
def cfgKind (type1 write : Bool) : Kind :=
  match write, type1 with
  | false, false => .cfgRd0
  | false, true => .cfgRd1
  | true, false => .cfgWr0
  | true, true => .cfgWr1

/-- A configuration request; `payload` is empty for a read (30_encoding.md R93, R94). -/
def cfgTlp (type1 write : Bool) (id : BitVec 16) (tag : Byte) (tgt : BitVec 16) (reg : BitVec 10) (be : BitVec 4)
    (payload : List Byte) : List Byte :=
  [cfgByte0 type1 write, 0x00] ++ lengthBytes 1 ++ be16 id ++ [tag, 0#4 ++ be] ++ be16 tgt ++
    [0#4 ++ reg.extractLsb' 6 4, reg.extractLsb' 0 6 ++ 0#2] ++ payload

/-! ## The fields a decoder delivers (10_state.md R26) -/

/-- The fields both memory decoders write (42_memory_rw.md R166, R167). -/
def memoryFields (k32 k64 : Kind) (n : Nat) (id : BitVec 16) (tag : Byte) (a : BitVec 64) : Response :=
  { okResponse with
    kind := some (if needs64 a then k64 else k32)
    reqId := some id
    tag := some tag
    addr := some a
    addr64 := some (needs64 a)
    lengthDw := some (BitVec.ofNat 11 (dwords n))
    byteCount := some (BitVec.ofNat 13 n)
    firstBe := some (firstEnables n)
    lastBe := some (lastEnables n) }

/-- The fields MRD_DECODE writes (42_memory_rw.md R166). -/
def readFields (n : Nat) (id : BitVec 16) (tag : Byte) (a : BitVec 64) : Response := memoryFields .mrd32 .mrd64 n id tag a

/-- The fields MWR_DECODE writes, OUT_BUF aside (42_memory_rw.md R167). -/
def writeFields (payload : List Byte) (id : BitVec 16) (tag : Byte) (a : BitVec 64) : Response :=
  { memoryFields .mwr32 .mwr64 payload.length id tag a with outLen := some (BitVec.ofNat 13 payload.length) }

/-- The fields CPL_DECODE writes, OUT_BUF aside (43_completion.md R193). -/
def cplFields (hasData : Bool) (cid : BitVec 16) (st : BitVec 3) (bc : Nat) (id : BitVec 16) (tag : Byte) (la : BitVec 7)
    (payload : List Byte) : Response :=
  { okResponse with
    kind := some (if hasData then .cplD else .cpl)
    cplId := some cid
    cplStatus := some st
    byteCount := some (BitVec.ofNat 13 bc)
    reqId := some id
    tag := some tag
    lowerAddr := some la
    hasData := some hasData
    lengthDw := some (BitVec.ofNat 11 (payload.length / 4))
    outLen := some (BitVec.ofNat 13 payload.length) }

/-- The fields CFG_DECODE writes, OUT_BUF aside (44_config.md R211). -/
def cfgFields (type1 write : Bool) (id : BitVec 16) (tag : Byte) (tgt : BitVec 16) (reg : BitVec 10) (be : BitVec 4)
    (payload : List Byte) : Response :=
  { okResponse with
    kind := some (cfgKind type1 write)
    cfgType := some type1
    cfgWrite := some write
    reqId := some id
    tag := some tag
    firstBe := some be
    tgtId := some tgt
    regIndex := some reg
    regNum := some (reg.extractLsb' 0 6)
    extReg := some (reg.extractLsb' 6 4)
    lengthDw := some 1
    outLen := some (BitVec.ofNat 13 payload.length) }

/-! ## What a TLP must be for its decoder to accept it -/

/-- A transfer a memory request can carry: 1 to 4096 bytes at a dword-aligned address (42_memory_rw.md R160, R163). -/
def LegalTransfer (n : Nat) (a : BitVec 64) : Prop := 1 ≤ n ∧ n ≤ 4096 ∧ a.toNat % 4 = 0

/-- A completion status that is not reserved (30_encoding.md R101). -/
def LegalStatus (st : BitVec 3) : Prop := st = 0 ∨ st = 1 ∨ st = 2 ∨ st = 4

/-- A payload a CplD can carry, and its Byte Count reaches its last dword (43_completion.md R191, R192). -/
def LegalCplData (bc : Nat) (la : BitVec 7) (payload : List Byte) : Prop :=
  1 ≤ payload.length ∧ payload.length ≤ 4096 ∧ payload.length % 4 = 0 ∧
    payload.length / 4 ≤ (la.toNat % 4 + bc + 3) / 4

/-- The payload of a configuration request: one dword for a write, none for a read (30_encoding.md R94). -/
def LegalCfgPayload (write : Bool) (payload : List Byte) : Prop := payload.length = if write then 4 else 0

/-- The address fits the width that WIDTH_SEL selects (30_encoding.md R112). -/
def WidthFits (w : BitVec 2) (a : BitVec 64) : Prop :=
  (w = 1 → needs64 a = false) ∧ (w = 2 → needs64 a = true)

/-! ## The check order of the decoders (45_validation.md R234)

A check is whether it holds and the error that is raised where it does not. -/

/-- The error of the first check that does not hold. -/
def firstFailed (checks : List (Bool × Status × ErrField)) : Option (Status × ErrField) :=
  (checks.find? fun c => !c.1).map fun c => c.2

/-- Byte `k` of a TLP. -/
def byteOf (tlp : List Byte) (k : Nat) : Byte := tlp.getD k 0

/-- The header size that byte 0 gives (45_validation.md R230). -/
def headerSize (tlp : List Byte) : Nat := if (byteOf tlp 0).getLsbD 5 then 16 else 12

/-- The 10-bit Length field, `b2[1:0] * 256 + b3` (30_encoding.md R103). -/
def lengthBits (tlp : List Byte) : Nat := (byteOf tlp 2).toNat % 4 * 256 + (byteOf tlp 3).toNat

/-- The Length in dwords (30_encoding.md R87). -/
def lengthDwords (tlp : List Byte) : Nat := if lengthBits tlp = 0 then 1024 else lengthBits tlp

/-- Steps 1 to 4: the buffer, byte 0, the header and the must-be-zero bits. -/
def headChecks (accepted : List Byte) (mbz : List (Nat × Byte)) (tlp : List Byte) : List (Bool × Status × ErrField) :=
  [(decide (4 ≤ tlp.length), .malformedHeader, .buffer),
   (accepted.contains (byteOf tlp 0), .unsupportedType, .fmtType),
   (decide (headerSize tlp ≤ tlp.length), .malformedHeader, .buffer),
   (((1, 0xFF) :: (2, 0xFC) :: mbz).all fun row => byteOf tlp row.1 &&& row.2 == 0, .malformedHeader, .reservedBits)]

/-- Step 6: the payload is `need` bytes (45_validation.md R233). -/
def payloadChecks (need : Nat) (tlp : List Byte) : List (Bool × Status × ErrField) :=
  [(decide (headerSize tlp + need ≤ tlp.length), .truncatedBuffer, .payload),
   (decide (tlp.length ≤ headerSize tlp + need), .lengthMismatch, .payload)]

/-- A low-contiguous mask that enables at least one byte (30_encoding.md R99). -/
def lowContiguous (m : BitVec 4) : Bool := m == 0b0001 || m == 0b0011 || m == 0b0111 || m == 0b1111

/-- Step 5 of the memory decoders (42_memory_rw.md R161, R166). -/
def transferChecks (tlp : List Byte) : List (Bool × Status × ErrField) :=
  let fbe := (byteOf tlp 7).extractLsb' 0 4
  let lbe := (byteOf tlp 7).extractLsb' 4 4
  let single := lengthDwords tlp == 1
  [(!(single && fbe == 0), .invalidLength, .firstBe),
   (if single then lowContiguous fbe else fbe == 0b1111, .malformedHeader, .firstBe),
   (if single then lbe == 0 else lowContiguous lbe, .malformedHeader, .lastBe),
   (!(headerSize tlp == 16 && ([8, 9, 10, 11].all fun k => byteOf tlp k == 0)), .invalidAddress, .address)]

/-- The must-be-zero bits of a memory header's last byte (30_encoding.md R96). -/
def memoryMbz (tlp : List Byte) : List (Nat × Byte) := [(headerSize tlp - 1, 0x03)]

/-- The checks of MRD_DECODE. -/
def readChecks (tlp : List Byte) : List (Bool × Status × ErrField) :=
  headChecks [0x00, 0x20] (memoryMbz tlp) tlp ++ transferChecks tlp ++ payloadChecks 0 tlp

/-- The bytes that the last dword's enables leave enabled. -/
def lastCount (tlp : List Byte) : Nat :=
  let b7 := (byteOf tlp 7).toNat
  let m := if lengthDwords tlp = 1 then b7 % 16 else b7 / 16
  m % 2 + m / 2 % 2 + m / 4 % 2 + m / 8

/-- The checks of MWR_DECODE; the last is the zero pad (42_memory_rw.md R167). -/
def writeChecks (tlp : List Byte) : List (Bool × Status × ErrField) :=
  headChecks [0x40, 0x60] (memoryMbz tlp) tlp ++ transferChecks tlp ++ payloadChecks (4 * lengthDwords tlp) tlp ++
    [((tlp.drop (headerSize tlp + 4 * (lengthDwords tlp - 1) + lastCount tlp)).all (· == 0), .malformedHeader, .payload)]

/-- The checks of CPL_DECODE (43_completion.md R190, R191, R193). -/
def cplChecks (tlp : List Byte) : List (Bool × Status × ErrField) :=
  let bits := (byteOf tlp 6).toNat % 16 * 256 + (byteOf tlp 7).toNat
  let count := if bits = 0 then 4096 else bits
  headChecks [0x0A, 0x4A] [(6, 0x10), (11, 0x80)] tlp ++
    [([0, 1, 2, 4].contains ((byteOf tlp 6).toNat / 32), .invalidCompletionStatus, .cplStatus)] ++
    if byteOf tlp 0 = 0x4A then
      payloadChecks (4 * lengthDwords tlp) tlp ++
        [(decide (lengthDwords tlp ≤ ((byteOf tlp 11).toNat % 4 + count + 3) / 4), .lengthMismatch, .byteCount)]
    else (lengthBits tlp == 0, .lengthMismatch, .length) :: payloadChecks 0 tlp

/-- The checks of CFG_DECODE (44_config.md R211). -/
def cfgChecks (tlp : List Byte) : List (Bool × Status × ErrField) :=
  headChecks [0x04, 0x05, 0x44, 0x45] [(10, 0xF0), (11, 0x03)] tlp ++
    [(lengthBits tlp == 1, .invalidLength, .length), (byteOf tlp 7 &&& 0xF0 == 0, .malformedHeader, .lastBe)] ++
    payloadChecks (if (byteOf tlp 0).getLsbD 6 then 4 else 0) tlp

/-- From `s` the outcome is the error of the first check that fails, and a success where none does. -/
def FollowsChecks (s : State) (o : Host.Outcome State Fault Refusal) (checks : List (Bool × Status × ErrField)) : Prop :=
  match firstFailed checks with
  | some (st, f) => Raises s o st f
  | none => ∃ t, Succeeds o t

/-! ## The text form of a Device ID (41_device_id.md R143) -/

/-- `c` is the ASCII hexadecimal digit of the value `v`, of either case. -/
def HexDigit (c : Byte) (v : Nat) : Prop :=
  (v ≤ 9 ∧ c = BitVec.ofNat 8 (0x30 + v)) ∨
  (10 ≤ v ∧ v ≤ 15 ∧ (c = BitVec.ofNat 8 (0x57 + v) ∨ c = BitVec.ofNat 8 (0x37 + v)))

/-- `field2`: one or two hexadecimal digits of the value `v`. -/
def Field2 (text : List Byte) (v : Nat) : Prop :=
  (∃ c, HexDigit c v ∧ text = [c]) ∨
  (∃ c c' x y, HexDigit c x ∧ HexDigit c' y ∧ text = [c, c'] ∧ v = x * 16 + y)

/-- `text` is `field2 ":" field2 "." digit` with the values `b`, `d` and `f`. -/
def TextForm (text : List Byte) (b d f : Nat) : Prop :=
  ∃ busText devText c, Field2 busText b ∧ Field2 devText d ∧ HexDigit c f ∧
    text = busText ++ [0x3A] ++ devText ++ [0x2E, c]

/-- The lower-case ASCII digit of a value below 16 (41_device_id.md R145). -/
def lowerHex (v : Nat) : Byte := if v ≤ 9 then BitVec.ofNat 8 (0x30 + v) else BitVec.ofNat 8 (0x57 + v)

/-- The canonical text of an ID: two digits, two digits and one, lower-case (41_device_id.md R145). -/
def canonicalText (v : BitVec 16) : List Byte :=
  [lowerHex (v.toNat / 4096), lowerHex (v.toNat / 256 % 16), 0x3A,
   lowerHex (v.toNat / 128 % 2), lowerHex (v.toNat / 8 % 16), 0x2E, lowerHex (v.toNat % 8)]

/-- The packed ID of three components in range, field by field (30_encoding.md R95). -/
def idOf (b d f : Nat) : BitVec 16 := BitVec.ofNat 8 b ++ (BitVec.ofNat 5 d ++ BitVec.ofNat 3 f)

/-- The fields an operation on a Device ID writes (41_device_id.md R141, R142, R144). -/
def idFields (b d f : Nat) : Response :=
  { okResponse with
    bus := some (BitVec.ofNat 8 b)
    dev := some (BitVec.ofNat 5 d)
    func := some (BitVec.ofNat 3 f)
    id16 := some (idOf b d f) }

/-! ## The invariant of a run -/

/-- OUT_BUF holds the bytes below OUT_LEN and no others; none where OUT_LEN is invalid (10_state.md R26). -/
def OutConsistent (resp : Response) : Prop :=
  ∀ a, (readByte resp.outBuf a).isSome = true ↔ ∃ n, resp.outLen = some n ∧ a < n.toNat

/-- The fields that may be valid after an error: STATUS, ERR_FIELD and DECODE_ANY's (60_exceptions.md R254). -/
def OnlyErrorFields (resp : Response) : Prop :=
  resp = { Response.invalid with
    status := resp.status
    errField := resp.errField
    candStatus := resp.candStatus
    candField := resp.candField
    winner := resp.winner }

/-- A response of a finished operation: complete, and either a success or an error, "never a part-result"
(60_exceptions.md R253, R254). -/
structure CompleteResponse (resp : Response) : Prop where
  status : resp.status.isSome = true
  errField : resp.errField.isSome = true
  agree : resp.status = some .ok ↔ resp.errField = some .noField
  error : resp.status ≠ some .ok → OnlyErrorFields resp
  out : OutConsistent resp
  outWf : Memory.wf 4112 resp.outBuf = true

/-- What PHASE says of the captured request and the response (10_state.md R31, R33, R34, R35). -/
def PhaseInv (s : State) : Prop :=
  match s.phase with
  | .idle => s.captured = none ∧ s.resp = Response.invalid
  | .busy => (∃ r, s.captured = some r ∧ requestReady r = true) ∧ s.resp = Response.invalid ∧ 1 ≤ s.remaining
  | .done => (∃ r, s.captured = some r ∧ requestReady r = true) ∧ CompleteResponse s.resp

/-- The invariant of a run: both input buffers are in canonical form within their 4112 bytes, and PHASE tells the truth. -/
structure Inv (s : State) : Prop where
  reqWf : Memory.wf 4112 s.req.inBuf = true
  capturedWf : ∀ r, s.captured = some r → Memory.wf 4112 r.inBuf = true
  phase : PhaseInv s

/-- The instruction a DECODE_ANY or a row of a TLP: those that report per-candidate results (45_validation.md R241). -/
def IsMultiAttempt (i : Instr) : Prop := i = .decodeAny ∨ (rowKind i).isSome = true

/-! ## The host while an operation runs (log 1, log 2) -/

/-- The host's actions that do not end a running operation or the run: writes of request fields and of bytes of IN_BUF, a
START, which is ignored, reads of PHASE and of DONE, and a `wait`. A reset abandons the operation, and a read of a response
field faults (10_state.md R24, R30, R32, R34; 70_reset_and_hazards.md R280). -/
def LetsItRun : HostAction → Prop
  | .write (.inBuf a _) => a.toNat ≤ 4111
  | .write _ | .start | .readPhase | .readDone | .wait => True
  | .read _ | .reset => False

/-- How many of the host's actions leave their step to the block (log 1). -/
def waits (acts : List HostAction) : Nat := acts.count .wait

/-- The request register file after the writes among `acts`, in their order (10_state.md R24). -/
def afterWrites (r : RequestFile) : List HostAction → RequestFile
  | [] => r
  | .write w :: acts => afterWrites (writeRequest r w) acts
  | _ :: acts => afterWrites r acts

/-- In `t` the operation that START took from `s` still runs: PHASE is BUSY, no response field is valid and the captured
request is the one START captured; the request register file is `req`, and the host's actions to come are `queue`
(10_state.md R24, R31). -/
structure StillRuns (s t : State) (req : RequestFile) (queue : List HostAction) : Prop where
  phase : t.phase = .busy
  resp : t.resp = Response.invalid
  captured : t.captured = some s.req
  req : t.req = req
  queue : t.hostQueue = queue

/-- In `t` the operation that START took from `s` has finished: PHASE is DONE and the response is complete, and is the one
that `exec` delivers on the captured request for the instruction it decodes to (10_state.md R33; log 5). -/
structure HasFinished (s t : State) (req : RequestFile) (queue : List HostAction) : Prop where
  phase : t.phase = .done
  complete : CompleteResponse t.resp
  captured : t.captured = some s.req
  req : t.req = req
  queue : t.hostQueue = queue
  isExec : ∃ image i, requestImage s.req = .ok image ∧ decode image = .ok i ∧
    exec i { s with captured := some s.req } = .next { s with
      captured := some s.req
      resp := t.resp
      phase := .done
      remaining := 0 }

end Sys2Proof.Safety
end

