-- ==== Sys2Proof/Certificates/Slice0/Obligations.lean ====
section
/-! DEFINITION. The statements for the provers, in the order of OBLIGATIONS.json. `Sys2Proof/Safety.lean` holds their terms. -/

section Statements

open Sys2Proof Sys2Proof.Machine Sys2Proof.Safety

/-! ## Encoding -/

/-- Decoding the image of a well-formed instruction gives it back, at every operand (30_encoding.md R84, R110). The image is
the model's own, log 5. -/
def Obligations.DecodeOfEncodeIsIdentity : Prop :=
  ∀ i : Instr, i.wf = true → decode (encode i) = .ok i

/-- What the decoder accepts is well formed and is encoded as the same bytes, so no bit of an image is dropped
(30_encoding.md R84, R110; log 5). -/
def Obligations.EncodeOfDecodeIsIdentity : Prop :=
  ∀ (image : List Byte) (i : Instr), decode image = .ok i → i.wf = true ∧ encode i = image

/-- Words written out from the code table (30_encoding.md R110) and the kind table (30_encoding.md R84). That a word of up to
eight bits is a command's code is the model's choice, log 6. -/
def Obligations.TableWordsDecode : Prop :=
  decodeTableWord 8 0b00000001 = some .classify ∧ decodeTableWord 8 0b00000101 = some .devidFormat ∧
  decodeTableWord 8 0b00010001 = some .mwrEncode ∧ decodeTableWord 8 0b00100000 = some .cplEncode ∧
  decodeTableWord 8 0b00110001 = some .cfgDecode ∧ decodeTableWord 8 0b01000000 = some .decodeAny ∧
  decodeTableWord 0 0 = some (.illegalCmd 0x00) ∧ decodeTableWord 16 0b01001010 = some .cplD ∧
  decodeTableWord 16 0b00110101 = some (.msg 0b101) ∧ decodeTableWord 16 0b10101100 = some (.reservedFmt5 0b01100)

/-- The kind table, byte 0 by byte 0 (30_encoding.md R84, R85). -/
def Obligations.KindTableOfByteZero : Prop :=
  ∀ b : Byte, kindCode (kindOf b) =
    if 0xA0 ≤ b.toNat then 29 else if 0x90 ≤ b.toNat then 28 else if 0x80 ≤ b.toNat then 27
    else if 0x70 ≤ b.toNat ∧ b.toNat ≤ 0x77 then 16 else if 0x30 ≤ b.toNat ∧ b.toNat ≤ 0x37 then 15
    else ([(0x00, 1), (0x20, 2), (0x01, 3), (0x21, 4), (0x40, 5), (0x60, 6), (0x02, 7), (0x42, 8), (0x04, 9), (0x44, 10),
      (0x05, 11), (0x45, 12), (0x1B, 13), (0x5B, 14), (0x0A, 17), (0x4A, 18), (0x0B, 19), (0x4B, 20), (0x4C, 21), (0x6C, 22),
      (0x4D, 23), (0x6D, 24), (0x4E, 25), (0x6E, 26)].lookup b.toNat).getD 0

/-! ## The handshake and reset -/

/-- The state after reset (10_state.md R35). -/
def Obligations.ResetState : Prop :=
  State.reset.phase = .idle ∧ doneFlag State.reset = false ∧ State.reset.captured = none ∧
  (∀ f, respValue State.reset.resp f = none) ∧ State.reset.req = RequestFile.unwritten

/-- Reset in any phase: PHASE is IDLE, every response field is invalid, no request is captured and every request field is
unwritten (70_reset_and_hazards.md R280). R280 says nothing of the two clauses on `hostQueue` and `readData`: that reset
leaves the host's actions to come and what it last read is the model's own, log 23. -/
def Obligations.ResetInAnyPhase : Prop :=
  ∀ (s : State) (rest : List HostAction), HostNext s .reset rest →
    ∃ t, step s = .next t ∧ t.phase = .idle ∧ (∀ f, respValue t.resp f = none) ∧ t.captured = none ∧
      t.req = RequestFile.unwritten ∧ t.hostQueue = rest ∧ t.readData = s.readData

/-- START in phase IDLE or DONE captures the request, clears every valid bit and sets PHASE to BUSY (10_state.md R31), where
every field the command reads is written (10_state.md R25). Two things are the model's own: which fields and bytes count as
read, and so when a START is taken, log 3; and that the latency starts to count here, log 2. -/
def Obligations.StartCapturesTheRequest : Prop :=
  ∀ (s : State) (rest : List HostAction), HostNext s .start rest → s.phase = .idle ∨ s.phase = .done →
    ¬ MissingOperand s.req →
    step s = .next { s with
      captured := some s.req
      resp := Response.invalid
      phase := .busy
      remaining := Config.latency s.req
      hostQueue := rest }

/-- START of a command that reads a field the host never wrote is a fault (10_state.md R25). Which bytes of IN_BUF count as
read is log 3. -/
def Obligations.StartOnMissingOperandFaults : Prop :=
  ∀ (s : State) (rest : List HostAction), HostNext s .start rest → s.phase = .idle ∨ s.phase = .done →
    MissingOperand s.req → step s = .fault .unwrittenField

/-- START in phase BUSY is ignored (10_state.md R32). -/
def Obligations.StartWhileBusyIsIgnored : Prop :=
  ∀ (s : State) (rest : List HostAction), HostNext s .start rest → s.phase = .busy →
    step s = .next { s with hostQueue := rest }

/-- A host write of a request field, in any phase, stores the value and changes nothing else: neither the captured request
nor the response nor PHASE (10_state.md R24; 20_memory.md R67). -/
def Obligations.HostWriteStoresOneField : Prop :=
  ∀ (s : State) (rest : List HostAction),
    let writes (w : HostWrite) (r : RequestFile) : Prop :=
      HostNext s (.write w) rest → step s = .next { s with req := r, hostQueue := rest }
    (∀ v, writes (.cmd v) { s.req with cmd := some v }) ∧
    (∀ v, writes (.inLen v) { s.req with inLen := some v }) ∧
    (∀ v, writes (.reqId v) { s.req with reqId := some v }) ∧
    (∀ v, writes (.tag v) { s.req with tag := some v }) ∧
    (∀ v, writes (.addr v) { s.req with addr := some v }) ∧
    (∀ v, writes (.widthSel v) { s.req with widthSel := some v }) ∧
    (∀ v, writes (.byteCount v) { s.req with byteCount := some v }) ∧
    (∀ v, writes (.cplId v) { s.req with cplId := some v }) ∧
    (∀ v, writes (.cplStatus v) { s.req with cplStatus := some v }) ∧
    (∀ v, writes (.lowerAddr v) { s.req with lowerAddr := some v }) ∧
    (∀ v, writes (.hasData v) { s.req with hasData := some v }) ∧
    (∀ v, writes (.cfgType v) { s.req with cfgType := some v }) ∧
    (∀ v, writes (.cfgWrite v) { s.req with cfgWrite := some v }) ∧
    (∀ v, writes (.tgtId v) { s.req with tgtId := some v }) ∧
    (∀ v, writes (.regIndex v) { s.req with regIndex := some v }) ∧
    (∀ v, writes (.firstBe v) { s.req with firstBe := some v }) ∧
    (∀ v, writes (.bus v) { s.req with bus := some v }) ∧
    (∀ v, writes (.dev v) { s.req with dev := some v }) ∧
    (∀ v, writes (.func v) { s.req with func := some v }) ∧
    (∀ v, writes (.id16 v) { s.req with id16 := some v })

/-- A host write of one byte of IN_BUF, by its 13-bit offset, changes that byte and nothing else (20_memory.md R60, R66, R67);
at the offsets outside the buffer, 4112 to 8191, there is no byte to write, and the write faults, log 10. -/
def Obligations.BufferWriteChangesOneByte : Prop :=
  ∀ (s : State) (rest : List HostAction) (a : BitVec 13) (v : Byte), HostNext s (.write (.inBuf a v)) rest →
    (a.toNat ≤ 4111 → ∃ t, step s = .next t ∧
      t = { s with req := { s.req with inBuf := t.req.inBuf }, hostQueue := rest } ∧
      ∀ k, readByte t.req.inBuf k = if k = a.toNat then some v else readByte s.req.inBuf k) ∧
    (4112 ≤ a.toNat → step s = .fault .noSuchByte)

/-- A host read of a response field, field by field: a valid one reads as its value, as a number, and the read changes nothing
of the block; an invalid one is a fault (10_state.md R26; 20_memory.md R67). STATUS and the CAND_STATUS fields read as the
codes of 60_exceptions.md R250, ERR_FIELD and the CAND_FIELD fields as those of R251, KIND as those of 30_encoding.md R84; a
byte of OUT_BUF at or beyond OUT_LEN is invalid. Where the value goes is the model's own, log 11; that a valid bit and its
value are one Option is the model's reading, log 4. -/
def Obligations.HostReadOfTheResponse : Prop :=
  ∀ (s : State) (rest : List HostAction),
    let reads := ReadGives s rest
    reads .status (s.resp.status.bind fun x => statusTable.lookup x) ∧
    reads .errField (s.resp.errField.bind fun x => errFieldTable.lookup x) ∧
    reads .kind (s.resp.kind.bind fun x => kindTable.lookup x) ∧
    reads .fmt (s.resp.fmt.map BitVec.toNat) ∧
    reads .type (s.resp.type.map BitVec.toNat) ∧
    reads .hasPayload (s.resp.hasPayload.map bitNumber) ∧
    reads .addr64 (s.resp.addr64.map bitNumber) ∧
    reads .hdrDw (s.resp.hdrDw.map BitVec.toNat) ∧
    reads .reqId (s.resp.reqId.map BitVec.toNat) ∧
    reads .tag (s.resp.tag.map BitVec.toNat) ∧
    reads .addr (s.resp.addr.map BitVec.toNat) ∧
    reads .lengthDw (s.resp.lengthDw.map BitVec.toNat) ∧
    reads .byteCount (s.resp.byteCount.map BitVec.toNat) ∧
    reads .firstBe (s.resp.firstBe.map BitVec.toNat) ∧
    reads .lastBe (s.resp.lastBe.map BitVec.toNat) ∧
    reads .cplId (s.resp.cplId.map BitVec.toNat) ∧
    reads .cplStatus (s.resp.cplStatus.map BitVec.toNat) ∧
    reads .lowerAddr (s.resp.lowerAddr.map BitVec.toNat) ∧
    reads .hasData (s.resp.hasData.map bitNumber) ∧
    reads .cfgType (s.resp.cfgType.map bitNumber) ∧
    reads .cfgWrite (s.resp.cfgWrite.map bitNumber) ∧
    reads .tgtId (s.resp.tgtId.map BitVec.toNat) ∧
    reads .regIndex (s.resp.regIndex.map BitVec.toNat) ∧
    reads .regNum (s.resp.regNum.map BitVec.toNat) ∧
    reads .extReg (s.resp.extReg.map BitVec.toNat) ∧
    reads .bus (s.resp.bus.map BitVec.toNat) ∧
    reads .dev (s.resp.dev.map BitVec.toNat) ∧
    reads .func (s.resp.func.map BitVec.toNat) ∧
    reads .id16 (s.resp.id16.map BitVec.toNat) ∧
    reads .outLen (s.resp.outLen.map BitVec.toNat) ∧
    reads .winner (s.resp.winner.map BitVec.toNat) ∧
    (∀ a : BitVec 13, reads (.outBuf a) ((readByte s.resp.outBuf a.toNat).map BitVec.toNat)) ∧
    (∀ a : BitVec 13, OutConsistent s.resp → (∀ n, s.resp.outLen = some n → n.toNat ≤ a.toNat) → reads (.outBuf a) none) ∧
    reads (.candStatus .mrd) (s.resp.candStatus.bind fun p => statusTable.lookup p.mrd) ∧
    reads (.candStatus .mwr) (s.resp.candStatus.bind fun p => statusTable.lookup p.mwr) ∧
    reads (.candStatus .cpl) (s.resp.candStatus.bind fun p => statusTable.lookup p.cpl) ∧
    reads (.candStatus .cfg) (s.resp.candStatus.bind fun p => statusTable.lookup p.cfg) ∧
    reads (.candField .mrd) (s.resp.candField.bind fun p => errFieldTable.lookup p.mrd) ∧
    reads (.candField .mwr) (s.resp.candField.bind fun p => errFieldTable.lookup p.mwr) ∧
    reads (.candField .cpl) (s.resp.candField.bind fun p => errFieldTable.lookup p.cpl) ∧
    reads (.candField .cfg) (s.resp.candField.bind fun p => errFieldTable.lookup p.cfg)

/-- A host read of a response field while PHASE is BUSY is a fault (10_state.md R34). -/
def Obligations.ReadWhileBusyFaults : Prop :=
  ∀ (s : State) (rest : List HostAction) (f : RespField), Inv s → s.phase = .busy → HostNext s (.read f) rest →
    step s = .fault .invalidRead

/-- PHASE reads as IDLE = 0, BUSY = 1, DONE = 2, and DONE as 1 exactly in phase DONE (10_state.md R28, R30). -/
def Obligations.PhaseAndDoneRead : Prop :=
  ∀ (s : State) (rest : List HostAction),
    (HostNext s .readPhase rest → step s = .next { s with
      readData := some (if s.phase = .idle then 0 else if s.phase = .busy then 1 else 2)
      hostQueue := rest }) ∧
    (HostNext s .readDone rest → step s = .next { s with
      readData := some (if s.phase = .done then 1 else 0)
      hostQueue := rest })

/-- Between operations the block stays in IDLE or DONE and keeps its fields (60_exceptions.md R264). -/
def Obligations.IdleAndDoneStay : Prop :=
  ∀ s : State, s.phase = .idle ∨ s.phase = .done → s.hostQueue = [] → step s = .next s

/-- A step runs the decoded instruction: where the block's own step is the finish and the image of the captured request
decodes to `i`, the step is `exec i`. Before that the latency counts down, and a `wait` of the host leaves the step to the
block (10_state.md R33; log 1, log 2, log 5). -/
def Obligations.StepRunsTheDecodedInstruction : Prop :=
  ∀ (s : State) (i : Instr) (r : RequestFile) (image : List Byte), s.captured = some r → requestImage r = .ok image →
    decode image = .ok i → s.phase = .busy →
    (s.hostQueue = [] → s.remaining ≤ 1 → step s = exec i s) ∧
    (s.hostQueue = [] → 2 ≤ s.remaining → step s = .next { s with remaining := s.remaining - 1 }) ∧
    (∀ rest, HostNext s .wait rest → s.remaining ≤ 1 → step s = exec i { s with hostQueue := rest }) ∧
    (∀ rest, HostNext s .wait rest → 2 ≤ s.remaining →
      step s = .next { s with remaining := s.remaining - 1, hostQueue := rest })

/-- The finish runs the command that the captured CMD names, and ILLEGAL_CMD for every other code (30_encoding.md R110,
45_validation.md R240). DECODE_ANY's code has a statement of its own. -/
def Obligations.FinishSelectsTheCommand : Prop :=
  ∀ (s : State) (r : RequestFile) (c : Byte), Finishing s → s.captured = some r → r.cmd = some c → c ≠ 0x40 →
    step s =
      if c = 0x01 then exec .classify s else if c = 0x02 then exec .devidPack s
      else if c = 0x03 then exec .devidUnpack s else if c = 0x04 then exec .devidParse s
      else if c = 0x05 then exec .devidFormat s else if c = 0x10 then exec .mrdEncode s
      else if c = 0x11 then exec .mwrEncode s else if c = 0x12 then exec .mrdDecode s
      else if c = 0x13 then exec .mwrDecode s else if c = 0x20 then exec .cplEncode s
      else if c = 0x21 then exec .cplDecode s else if c = 0x30 then exec .cfgEncode s
      else if c = 0x31 then exec .cfgDecode s else exec (.illegalCmd c) s

/-- The finish of a DECODE_ANY, whichever row of byte 0 it is dispatched to, is the multi-attempt decode of
45_validation.md R241 (40_header_classify.md R133). That the finish is dispatched to a row at all is the model's own, log 5. -/
def Obligations.DecodeAnyDispatchIsTheMultiAttempt : Prop :=
  ∀ (s : State) (r : RequestFile) (bytes : List Byte), Finishing s → HoldsInput s r bytes → r.cmd = some 0x40 →
    step s = exec .decodeAny s

/-- Every operation finishes, whatever the host does meanwhile but a reset or a read of the response (10_state.md R24, R31,
R32, R33). `acts` is what the host does after a START that is taken: writes, further STARTs, reads of PHASE and of DONE, waits.
While the block has taken fewer steps than the latency, at least one, the operation runs on the request START captured, and the
request register file holds the host's writes; with the latency's last step, taken by the block alone or at a `wait` of the
host, PHASE is DONE and the whole response is there. Five things are the model's own: the order of host and block, log 1, the
count of steps, log 2, when a START is taken, log 3, the image by which the captured request selects its instruction, log 5,
and which bytes of IN_BUF there are to write, log 10. -/
def Obligations.EveryOperationFinishes : Prop :=
  ∀ (s : State) (acts rest : List HostAction), s.hostQueue = .start :: (acts ++ rest) → s.phase = .idle ∨ s.phase = .done →
    ¬ MissingOperand s.req → (∀ a ∈ acts, LetsItRun a) →
    let latency := Config.latency s.req
    let req := afterWrites s.req acts
    1 ≤ latency ∧
    (waits acts < latency → ∃ t, runSteps (1 + acts.length) s = .next t ∧ StillRuns s t req rest) ∧
    (rest = [] → ∀ k, waits acts + k < latency →
      ∃ t, runSteps (1 + acts.length + k) s = .next t ∧ StillRuns s t req []) ∧
    (rest = [] → ∀ k, 1 ≤ k → waits acts + k = latency →
      ∃ t, runSteps (1 + acts.length + k) s = .next t ∧ HasFinished s t req []) ∧
    (∀ more, rest = .wait :: more → waits acts + 1 = latency →
      ∃ t, runSteps (1 + acts.length + 1) s = .next t ∧ HasFinished s t req more)

/-- The outcome of a running operation does not depend on how many steps it has left (70_reset_and_hazards.md R283). -/
def Obligations.LatencyDoesNotMatter : Prop :=
  ∀ (s : State) (m n : Nat), s.hostQueue = [] → s.phase = .busy → 1 ≤ m → 1 ≤ n →
    runSteps m { s with remaining := m } = runSteps n { s with remaining := n }

/-! ## The invariant -/

/-- The state after reset has the invariant (10_state.md R35). -/
def Obligations.ResetHasInvariant : Prop := Inv State.reset

/-- Every step keeps the invariant: buffers in canonical form; no request and no response in IDLE; a ready request and no
response in BUSY; a complete response, success or error, in DONE (10_state.md R31, R33; 60_exceptions.md R253). -/
def Obligations.StepKeepsInvariant : Prop :=
  ∀ s t : State, Inv s → step s = .next t → Inv t

/-- The block's own step never stops: no fault and no refusal (10_state.md R33; 45_validation.md R240). -/
def Obligations.BlockStepNeverStops : Prop :=
  ∀ s : State, Inv s → s.hostQueue = [] → ∃ t, step s = .next t

/-! ## Every operation -/

/-- What an instruction leaves unchanged: everything but the response, PHASE, which becomes DONE, and the model's step count
(10_state.md R23, R33; 60_exceptions.md R253). -/
def Obligations.OperationFrame : Prop :=
  ∀ (i : Instr) (s t : State), exec i s = .next t → t = { s with resp := t.resp, phase := .done, remaining := 0 }

/-- The response depends on the captured request alone; what an earlier operation left is gone at START
(10_state.md R22). -/
def Obligations.ResponseDependsOnCapturedRequest : Prop :=
  (∀ (i : Instr) (s s' t : State), s.captured = s'.captured → exec i s = .next t →
    exec i s' = .next { s' with resp := t.resp, phase := .done, remaining := 0 }) ∧
  (∀ (s t : State) (rest : List HostAction), HostNext s .start rest → s.phase ≠ .busy → step s = .next t →
    t.resp = Response.invalid)

/-- Bytes at or beyond IN_LEN never affect a result, an operation never writes IN_BUF, and a host write never writes OUT_BUF
(20_memory.md R61). -/
def Obligations.BytesBeyondInLenDoNotMatter : Prop :=
  (∀ (i : Instr) (s t : State) (r : RequestFile) (m : Memory), s.captured = some r →
    (∀ l k, r.inLen = some l → k < l.toNat → readByte m k = readByte r.inBuf k) → exec i s = .next t →
    exec i { s with captured := some { r with inBuf := m } } = .next { t with captured := some { r with inBuf := m } }) ∧
  (∀ (i : Instr) (s t : State), exec i s = .next t → t.req.inBuf = s.req.inBuf ∧ t.captured = s.captured) ∧
  (∀ (s t : State) (rest : List HostAction) (w : HostWrite), HostNext s (.write w) rest → step s = .next t →
    t.resp.outBuf = s.resp.outBuf)

/-- After an error STATUS and ERR_FIELD are valid, for DECODE_ANY the candidates' results and WINNER = 7 too, and every other
field is invalid: a host read of it faults (60_exceptions.md R254). Two things are the model's own: that a TLP_BYTE0 row runs
as a DECODE_ANY and so leaves the candidates' fields valid too, log 5; and that a request that `Exec` refuses for its IN_LEN,
which this statement leaves to IllegalCommandCases, never reaches DECODE_ANY, log 24. -/
def Obligations.ErrorLeavesOnlyErrorFields : Prop :=
  ∀ (i : Instr) (s t : State) (r : RequestFile) (l : BitVec 13), s.captured = some r → r.inLen = some l → l.toNat ≤ 4112 →
    exec i s = .next t → t.resp.status ≠ some .ok →
    t.resp.status.isSome = true ∧ t.resp.errField.isSome = true ∧ OnlyErrorFields t.resp ∧
    (IsMultiAttempt i → t.resp.candStatus.isSome = true ∧ t.resp.candField.isSome = true ∧ t.resp.winner = some 7) ∧
    (¬ IsMultiAttempt i → t.resp.candStatus = none ∧ t.resp.candField = none ∧ t.resp.winner = none) ∧
    ∀ (f : RespField) (rest : List HostAction), f ≠ .status → f ≠ .errField → (∀ c, f ≠ .candStatus c) →
      (∀ c, f ≠ .candField c) → f ≠ .winner → step { t with hostQueue := .read f :: rest } = .fault .invalidRead

/-- IllegalCommand is raised for a CMD value that is no code, for an IN_LEN above 4112 in every command, and for WIDTH_SEL = 3
in MRD_ENCODE and MWR_ENCODE; each is a response like the other errors (60_exceptions.md R252). The request has every
operand of its command. That a DECODE_ANY refused for its IN_LEN leaves CAND_STATUS, CAND_FIELD and WINNER invalid, as
`Raises` says of every one of them, is the model's reading, log 24; which fields count as operands is log 3. -/
def Obligations.IllegalCommandCases : Prop :=
  ∀ (s : State) (r : RequestFile) (c : Byte) (l : BitVec 13), s.captured = some r → r.cmd = some c → r.inLen = some l →
    (c ∉ [0x01, 0x02, 0x03, 0x04, 0x05, 0x10, 0x11, 0x12, 0x13, 0x20, 0x21, 0x30, 0x31, 0x40] →
      Raises s (exec (.illegalCmd c) s) .illegalCommand .cmd ∧
      (Finishing s → Raises s (step s) .illegalCommand .cmd)) ∧
    (c ∈ [0x01, 0x02, 0x03, 0x04, 0x05, 0x10, 0x11, 0x12, 0x13, 0x20, 0x21, 0x30, 0x31, 0x40] → 4112 < l.toNat →
      ¬ MissingOperand r → Finishing s → Raises s (step s) .illegalCommand .buffer) ∧
    (c = 0x10 ∨ c = 0x11 → l.toNat ≤ 4112 → ¬ MissingOperand r → r.widthSel = some 3 → Finishing s →
      Raises s (step s) .illegalCommand .widthSel)

/-! ## CLASSIFY -/

/-- CLASSIFY reads byte 0 of a buffer of at least 4 bytes and nothing else (40_header_classify.md R132). -/
def Obligations.ClassifyResult : Prop :=
  ∀ (s : State) (r : RequestFile) (n : Nat), HoldsLength s r n →
    (n ≤ 3 → Raises s (exec .classify s) .malformedHeader .buffer) ∧
    (∀ b : Byte, 4 ≤ n → readByte r.inBuf 0 = some b →
      ∃ t, exec .classify s = .next t ∧ Delivers s t { okResponse with
        fmt := some (b.extractLsb' 5 3)
        type := some (b.extractLsb' 0 5)
        kind := some (kindOf b)
        hasPayload := some (decide (b.toNat ≤ 0x7F) && b.getLsbD 6)
        addr64 := some (decide (b.toNat ≤ 0x7F) && b.getLsbD 5)
        hdrDw := some (if b.toNat ≤ 0x7F then (if b.getLsbD 5 then 4 else 3) else if b.toNat ≤ 0x9F then 1 else 0) } [])

/-! ## Device IDs -/

/-- `Pack` on in-range triples and `Unpack` are inverse, and `Pack` is `b * 256 + d * 8 + f` (41_device_id.md R140). -/
def Obligations.PackAndUnpackAreInverse : Prop :=
  (∀ b d f : Nat, b ≤ 255 → d ≤ 31 → f ≤ 7 → (packId b d f).toNat = b * 256 + d * 8 + f ∧
    (busOf (packId b d f)).toNat = b ∧ (devOf (packId b d f)).toNat = d ∧ (funcOf (packId b d f)).toNat = f) ∧
  (∀ v : BitVec 16, busOf v = v.extractLsb' 8 8 ∧ devOf v = v.extractLsb' 3 5 ∧ funcOf v = v.extractLsb' 0 3 ∧
    packId (busOf v).toNat (devOf v).toNat (funcOf v).toNat = v)

/-- DEVID_PACK rejects the first component out of range, and else packs (41_device_id.md R141). -/
def Obligations.DevidPackResult : Prop :=
  ∀ (s : State) (r : RequestFile) (n : Nat) (b d f : BitVec 16), HoldsLength s r n → r.bus = some b → r.dev = some d →
    r.func = some f →
    (255 < b.toNat → Raises s (exec .devidPack s) .invalidDeviceIdFormat .devidBus) ∧
    (b.toNat ≤ 255 → 31 < d.toNat → Raises s (exec .devidPack s) .invalidDeviceIdFormat .devidDev) ∧
    (b.toNat ≤ 255 → d.toNat ≤ 31 → 7 < f.toNat → Raises s (exec .devidPack s) .invalidDeviceIdFormat .devidFunc) ∧
    (b.toNat ≤ 255 → d.toNat ≤ 31 → f.toNat ≤ 7 →
      ∃ t, exec .devidPack s = .next t ∧ Delivers s t (idFields b.toNat d.toNat f.toNat) [])

/-- DEVID_UNPACK splits every 16-bit value (41_device_id.md R142). -/
def Obligations.DevidUnpackResult : Prop :=
  ∀ (s : State) (r : RequestFile) (n : Nat) (v : BitVec 16), HoldsLength s r n → r.id16 = some v →
    ∃ t, exec .devidUnpack s = .next t ∧ Delivers s t { okResponse with
      bus := some (v.extractLsb' 8 8)
      dev := some (v.extractLsb' 3 5)
      func := some (v.extractLsb' 0 3)
      id16 := some v } []

/-- DEVID_PARSE reports syntax, then the device, then the function, and else the components of the text
(41_device_id.md R143, R144). -/
def Obligations.DevidParseResult : Prop :=
  ∀ (s : State) (r : RequestFile) (text : List Byte), HoldsInput s r text →
    ((∀ b d f, ¬ TextForm text b d f) → Raises s (exec .devidParse s) .invalidDeviceIdFormat .devidString) ∧
    (∀ b d f, TextForm text b d f →
      (31 < d → Raises s (exec .devidParse s) .invalidDeviceIdFormat .devidDev) ∧
      (d ≤ 31 → 7 < f → Raises s (exec .devidParse s) .invalidDeviceIdFormat .devidFunc) ∧
      (d ≤ 31 → f ≤ 7 → ∃ t, exec .devidParse s = .next t ∧ Delivers s t (idFields b d f) []))

/-- DEVID_FORMAT writes the seven canonical bytes of every 16-bit value (41_device_id.md R145). -/
def Obligations.DevidFormatResult : Prop :=
  ∀ (s : State) (r : RequestFile) (n : Nat) (v : BitVec 16), HoldsLength s r n → r.id16 = some v →
    ∃ t, exec .devidFormat s = .next t ∧ Delivers s t { okResponse with outLen := some 7 } (canonicalText v)

/-- The four laws of the Device ID commands: unpack of pack, pack of unpack, parse of format, and format of parse, which gives
back the text exactly where it was canonical (41_device_id.md R146). -/
def Obligations.DeviceIdLaws : Prop :=
  (∀ b d f : Nat, b ≤ 255 → d ≤ 31 → f ≤ 7 → (busOf (packId b d f)).toNat = b ∧ (devOf (packId b d f)).toNat = d ∧
    (funcOf (packId b d f)).toNat = f) ∧
  (∀ v : BitVec 16, packId (busOf v).toNat (devOf v).toNat (funcOf v).toNat = v) ∧
  (∀ (s t s' : State) (r r' : RequestFile) (n : Nat) (v : BitVec 16) (text : List Byte), HoldsLength s r n →
    r.id16 = some v → exec .devidFormat s = .next t → OutputIs t.resp text → HoldsInput s' r' text →
    ∃ t', Succeeds (exec .devidParse s') t' ∧ t'.resp.id16 = some v) ∧
  (∀ (s t s' : State) (r r' : RequestFile) (n : Nat) (text : List Byte), HoldsInput s r text →
    Succeeds (exec .devidParse s) t → HoldsLength s' r' n → r'.id16 = t.resp.id16 →
    ∃ t' v, Succeeds (exec .devidFormat s') t' ∧ r'.id16 = some v ∧ OutputIs t'.resp (canonicalText v) ∧
      (canonicalText v = text ↔ ∃ a b c d e, a ≤ 15 ∧ b ≤ 15 ∧ c ≤ 15 ∧ d ≤ 15 ∧ e ≤ 15 ∧
        text = [lowerHex a, lowerHex b, 0x3A, lowerHex c, lowerHex d, 0x2E, lowerHex e]))

/-! ## Memory Read and Memory Write -/

/-- `CountToBe` and `BeToCount` are inverse (42_memory_rw.md R162). The Length of a header is at least 1
(30_encoding.md R87). -/
def Obligations.ByteCountsAndEnablesAreInverse : Prop :=
  (∀ n : Nat, 1 ≤ n → n ≤ 4096 → beToCount (countToBe n).1 (countToBe n).2.1 (countToBe n).2.2 = .ok n) ∧
  (∀ (L n : Nat) (fbe lbe : BitVec 4), 1 ≤ L → beToCount L fbe lbe = .ok n → countToBe n = (L, fbe, lbe))

/-- MRD_ENCODE: the errors in their order, and else the read request (42_memory_rw.md R164). -/
def Obligations.MrdEncodeResult : Prop :=
  ∀ (s : State) (r : RequestFile) (n : Nat) (id : BitVec 16) (tag : Byte) (a : BitVec 64) (w : BitVec 2) (c : BitVec 13),
    HoldsLength s r n → r.reqId = some id → r.tag = some tag → r.addr = some a → r.widthSel = some w → r.byteCount = some c →
    (w = 3 → Raises s (exec .mrdEncode s) .illegalCommand .widthSel) ∧
    (w ≠ 3 → c.toNat = 0 ∨ 4096 < c.toNat → Raises s (exec .mrdEncode s) .invalidLength .byteCount) ∧
    (w ≠ 3 → 1 ≤ c.toNat → c.toNat ≤ 4096 → ¬ (a.toNat % 4 = 0 ∧ WidthFits w a) →
      Raises s (exec .mrdEncode s) .invalidAddress .address) ∧
    (w ≠ 3 → LegalTransfer c.toNat a → WidthFits w a →
      ∃ t, exec .mrdEncode s = .next t ∧ Delivers s t { okResponse with
        outLen := some (if needs64 a then 16 else 12)
        kind := some (if needs64 a then .mrd64 else .mrd32)
        addr64 := some (needs64 a)
        lengthDw := some (BitVec.ofNat 11 (dwords c.toNat))
        firstBe := some (firstEnables c.toNat)
        lastBe := some (lastEnables c.toNat) } (readTlp c.toNat id tag a))

/-- MWR_ENCODE: the errors in their order, and else the write request with its payload and zero pad
(42_memory_rw.md R165). -/
def Obligations.MwrEncodeResult : Prop :=
  ∀ (s : State) (r : RequestFile) (payload : List Byte) (id : BitVec 16) (tag : Byte) (a : BitVec 64) (w : BitVec 2),
    HoldsInput s r payload → r.reqId = some id → r.tag = some tag → r.addr = some a → r.widthSel = some w →
    (w = 3 → Raises s (exec .mwrEncode s) .illegalCommand .widthSel) ∧
    (w ≠ 3 → payload.length = 0 ∨ 4096 < payload.length → Raises s (exec .mwrEncode s) .invalidLength .payload) ∧
    (w ≠ 3 → 1 ≤ payload.length → payload.length ≤ 4096 → ¬ (a.toNat % 4 = 0 ∧ WidthFits w a) →
      Raises s (exec .mwrEncode s) .invalidAddress .address) ∧
    (w ≠ 3 → LegalTransfer payload.length a → WidthFits w a →
      ∃ t, exec .mwrEncode s = .next t ∧ Delivers s t { okResponse with
        outLen := some (BitVec.ofNat 13 ((if needs64 a then 16 else 12) + 4 * dwords payload.length))
        kind := some (if needs64 a then .mwr64 else .mwr32)
        addr64 := some (needs64 a)
        lengthDw := some (BitVec.ofNat 11 (dwords payload.length))
        firstBe := some (firstEnables payload.length)
        lastBe := some (lastEnables payload.length) } (writeTlp payload id tag a))

/-- MRD_DECODE completes on every read request and delivers its fields (42_memory_rw.md R166, 30_encoding.md R103). -/
def Obligations.MrdDecodeDeliversReadRequests : Prop :=
  ∀ (s : State) (r : RequestFile) (n : Nat) (id : BitVec 16) (tag : Byte) (a : BitVec 64), LegalTransfer n a →
    HoldsInput s r (readTlp n id tag a) →
    ∃ t, exec .mrdDecode s = .next t ∧ Delivers s t (readFields n id tag a) []

/-- MWR_DECODE completes on every write request and delivers its fields and its payload (42_memory_rw.md R167). -/
def Obligations.MwrDecodeDeliversWriteRequests : Prop :=
  ∀ (s : State) (r : RequestFile) (payload : List Byte) (id : BitVec 16) (tag : Byte) (a : BitVec 64),
    LegalTransfer payload.length a → HoldsInput s r (writeTlp payload id tag a) →
    ∃ t, exec .mwrDecode s = .next t ∧ Delivers s t (writeFields payload id tag a) payload

/-- MRD_DECODE accepts only read requests: a success means that the buffer is, bit for bit, the request of some legal
transfer (42_memory_rw.md R166, R168). -/
def Obligations.MrdDecodeAcceptsOnlyReadRequests : Prop :=
  ∀ (s t : State) (r : RequestFile) (bytes : List Byte), HoldsInput s r bytes → Succeeds (exec .mrdDecode s) t →
    ∃ n id tag a, LegalTransfer n a ∧ bytes = readTlp n id tag a

/-- MWR_DECODE accepts only write requests (42_memory_rw.md R167, R168). -/
def Obligations.MwrDecodeAcceptsOnlyWriteRequests : Prop :=
  ∀ (s t : State) (r : RequestFile) (bytes : List Byte), HoldsInput s r bytes → Succeeds (exec .mwrDecode s) t →
    ∃ payload id tag a, LegalTransfer payload.length a ∧ bytes = writeTlp payload id tag a

/-- The round trips of the memory commands, both ways (42_memory_rw.md R168). -/
def Obligations.MemoryRoundTrip : Prop :=
  (∀ (s t s' : State) (r r' : RequestFile) (n : Nat) (out : List Byte), HoldsLength s r n → r.widthSel = some 0 →
    Succeeds (exec .mrdEncode s) t → OutputIs t.resp out → HoldsInput s' r' out →
    ∃ t', Succeeds (exec .mrdDecode s') t' ∧ t'.resp.reqId = r.reqId ∧ t'.resp.tag = r.tag ∧ t'.resp.addr = r.addr ∧
      t'.resp.byteCount = r.byteCount) ∧
  (∀ (s t s' : State) (r r' : RequestFile) (payload out : List Byte), HoldsInput s r payload → r.widthSel = some 0 →
    Succeeds (exec .mwrEncode s) t → OutputIs t.resp out → HoldsInput s' r' out →
    ∃ t', Succeeds (exec .mwrDecode s') t' ∧ t'.resp.reqId = r.reqId ∧ t'.resp.tag = r.tag ∧ t'.resp.addr = r.addr ∧
      t'.resp.byteCount = r.inLen ∧ OutputIs t'.resp payload) ∧
  (∀ (s t s' : State) (r r' : RequestFile) (n : Nat) (bytes : List Byte), HoldsInput s r bytes →
    Succeeds (exec .mrdDecode s) t → HoldsLength s' r' n → r'.reqId = t.resp.reqId → r'.tag = t.resp.tag →
    r'.addr = t.resp.addr → r'.byteCount = t.resp.byteCount → r'.widthSel = some 0 →
    ∃ t', Succeeds (exec .mrdEncode s') t' ∧ OutputIs t'.resp bytes) ∧
  (∀ (s t s' : State) (r r' : RequestFile) (bytes payload : List Byte), HoldsInput s r bytes →
    Succeeds (exec .mwrDecode s) t → OutputIs t.resp payload → HoldsInput s' r' payload → r'.reqId = t.resp.reqId →
    r'.tag = t.resp.tag → r'.addr = t.resp.addr → r'.widthSel = some 0 →
    ∃ t', Succeeds (exec .mwrEncode s') t' ∧ OutputIs t'.resp bytes)

/-! ## Completions -/

/-- CPL_ENCODE: the errors in their order, and else the completion (43_completion.md R192). -/
def Obligations.CplEncodeResult : Prop :=
  ∀ (s : State) (r : RequestFile) (payload : List Byte) (cid id : BitVec 16) (st : BitVec 3) (c : BitVec 13) (tag : Byte)
    (la : BitVec 7) (d : Bool), HoldsInput s r payload → r.cplId = some cid → r.reqId = some id → r.cplStatus = some st →
    r.byteCount = some c → r.tag = some tag → r.lowerAddr = some la → r.hasData = some d →
    (¬ LegalStatus st → Raises s (exec .cplEncode s) .invalidCompletionStatus .cplStatus) ∧
    (LegalStatus st → c.toNat = 0 ∨ 4096 < c.toNat → Raises s (exec .cplEncode s) .invalidLength .byteCount) ∧
    (LegalStatus st → 1 ≤ c.toNat → c.toNat ≤ 4096 → d = true →
      (payload.length = 0 ∨ 4096 < payload.length ∨ payload.length % 4 ≠ 0 →
        Raises s (exec .cplEncode s) .invalidLength .payload) ∧
      (1 ≤ payload.length → payload.length ≤ 4096 → payload.length % 4 = 0 →
        (la.toNat % 4 + c.toNat + 3) / 4 < payload.length / 4 → Raises s (exec .cplEncode s) .lengthMismatch .byteCount) ∧
      (LegalCplData c.toNat la payload → ∃ t, exec .cplEncode s = .next t ∧ Delivers s t { okResponse with
        outLen := some (BitVec.ofNat 13 (12 + payload.length))
        kind := some .cplD
        lengthDw := some (BitVec.ofNat 11 (payload.length / 4)) } (cplDTlp cid st c.toNat id tag la payload))) ∧
    (LegalStatus st → 1 ≤ c.toNat → c.toNat ≤ 4096 → d = false →
      (payload ≠ [] → Raises s (exec .cplEncode s) .lengthMismatch .payload) ∧
      (payload = [] → ∃ t, exec .cplEncode s = .next t ∧ Delivers s t { okResponse with
        outLen := some 12
        kind := some .cpl
        lengthDw := some 0 } (cplTlp cid st c.toNat id tag la)))

/-- CPL_DECODE completes on every completion, with and without data, and delivers its fields and its payload
(43_completion.md R193). -/
def Obligations.CplDecodeDeliversCompletions : Prop :=
  ∀ (s : State) (r : RequestFile) (cid id : BitVec 16) (st : BitVec 3) (bc : Nat) (tag : Byte) (la : BitVec 7)
    (payload : List Byte), LegalStatus st → 1 ≤ bc → bc ≤ 4096 →
    (HoldsInput s r (cplTlp cid st bc id tag la) →
      ∃ t, exec .cplDecode s = .next t ∧ Delivers s t (cplFields false cid st bc id tag la []) []) ∧
    (LegalCplData bc la payload → HoldsInput s r (cplDTlp cid st bc id tag la payload) →
      ∃ t, exec .cplDecode s = .next t ∧ Delivers s t (cplFields true cid st bc id tag la payload) payload)

/-- CPL_DECODE accepts only completions (43_completion.md R193, R194). -/
def Obligations.CplDecodeAcceptsOnlyCompletions : Prop :=
  ∀ (s t : State) (r : RequestFile) (bytes : List Byte), HoldsInput s r bytes → Succeeds (exec .cplDecode s) t →
    ∃ cid st bc id tag la payload, LegalStatus st ∧ 1 ≤ bc ∧ bc ≤ 4096 ∧
      (bytes = cplTlp cid st bc id tag la ∨ (LegalCplData bc la payload ∧ bytes = cplDTlp cid st bc id tag la payload))

/-- A completion status outside SC, UR, CRS and CA is always rejected, by the encoder and by the decoder, and never one of the
four (43_completion.md R190). -/
def Obligations.ReservedCompletionStatusIsRejected : Prop :=
  (∀ (s : State) (r : RequestFile) (st : BitVec 3), s.captured = some r → fieldsWritten r (fieldsRead .cplEncode) = true →
    (∃ l, r.inLen = some l ∧ l.toNat ≤ 4112) → r.cplStatus = some st →
    (st ∉ [0b000, 0b001, 0b010, 0b100] → Raises s (exec .cplEncode s) .invalidCompletionStatus .cplStatus) ∧
    (st ∈ [0b000, 0b001, 0b010, 0b100] → ∃ t, exec .cplEncode s = .next t ∧ t.resp.errField ≠ some .cplStatus)) ∧
  (∀ (s : State) (r : RequestFile) (bytes : List Byte), HoldsInput s r bytes → 12 ≤ bytes.length →
    byteOf bytes 0 = 0x0A ∨ byteOf bytes 0 = 0x4A → byteOf bytes 1 = 0 → byteOf bytes 2 &&& 0xFC = 0 →
    byteOf bytes 6 &&& 0x10 = 0 → byteOf bytes 11 &&& 0x80 = 0 →
    ((byteOf bytes 6).extractLsb' 5 3 ∉ [0b000#3, 0b001#3, 0b010#3, 0b100#3] →
      Raises s (exec .cplDecode s) .invalidCompletionStatus .cplStatus) ∧
    ((byteOf bytes 6).extractLsb' 5 3 ∈ [0b000#3, 0b001#3, 0b010#3, 0b100#3] →
      ∃ t, exec .cplDecode s = .next t ∧ t.resp.errField ≠ some .cplStatus))

/-- The round trips of the completion commands, both ways, and the Length of a CplD (43_completion.md R194). -/
def Obligations.CompletionRoundTrip : Prop :=
  (∀ (s t s' : State) (r r' : RequestFile) (payload out : List Byte), HoldsInput s r payload →
    Succeeds (exec .cplEncode s) t → OutputIs t.resp out → HoldsInput s' r' out →
    (r.hasData = some true → lengthDwords out = payload.length / 4 ∧ payload.length % 4 = 0) ∧
    ∃ t', Succeeds (exec .cplDecode s') t' ∧ t'.resp.cplId = r.cplId ∧ t'.resp.cplStatus = r.cplStatus ∧
      t'.resp.byteCount = r.byteCount ∧ t'.resp.reqId = r.reqId ∧ t'.resp.tag = r.tag ∧
      t'.resp.lowerAddr = r.lowerAddr ∧ t'.resp.hasData = r.hasData ∧ OutputIs t'.resp payload) ∧
  (∀ (s t s' : State) (r r' : RequestFile) (bytes payload : List Byte), HoldsInput s r bytes →
    Succeeds (exec .cplDecode s) t → OutputIs t.resp payload → HoldsInput s' r' payload → r'.cplId = t.resp.cplId →
    r'.cplStatus = t.resp.cplStatus → r'.byteCount = t.resp.byteCount → r'.reqId = t.resp.reqId → r'.tag = t.resp.tag →
    r'.lowerAddr = t.resp.lowerAddr → r'.hasData = t.resp.hasData →
    ∃ t', Succeeds (exec .cplEncode s') t' ∧ OutputIs t'.resp bytes)

/-! ## Configuration requests -/

/-- CFG_ENCODE: the errors in their order, and else the configuration request (44_config.md R210). -/
def Obligations.CfgEncodeResult : Prop :=
  ∀ (s : State) (r : RequestFile) (payload : List Byte) (type1 write : Bool) (id tgt reg : BitVec 16) (tag : Byte)
    (be : BitVec 4), HoldsInput s r payload → r.cfgType = some type1 → r.cfgWrite = some write → r.reqId = some id →
    r.tag = some tag → r.tgtId = some tgt → r.regIndex = some reg → r.firstBe = some be →
    (1023 < reg.toNat → Raises s (exec .cfgEncode s) .invalidAddress .regIndex) ∧
    (reg.toNat ≤ 1023 → write = true → payload.length ≠ 4 → Raises s (exec .cfgEncode s) .invalidLength .payload) ∧
    (reg.toNat ≤ 1023 → write = false → payload.length ≠ 0 → Raises s (exec .cfgEncode s) .lengthMismatch .payload) ∧
    (reg.toNat ≤ 1023 → LegalCfgPayload write payload → ∃ t, exec .cfgEncode s = .next t ∧ Delivers s t { okResponse with
      outLen := some (BitVec.ofNat 13 (12 + payload.length))
      kind := some (cfgKind type1 write)
      lengthDw := some 1 } (cfgTlp type1 write id tag tgt (reg.setWidth 10) be payload))

/-- CFG_DECODE completes on every configuration request and delivers its fields and its payload (44_config.md R211). -/
def Obligations.CfgDecodeDeliversConfigRequests : Prop :=
  ∀ (s : State) (r : RequestFile) (type1 write : Bool) (id tgt : BitVec 16) (tag : Byte) (reg : BitVec 10) (be : BitVec 4)
    (payload : List Byte), LegalCfgPayload write payload →
    HoldsInput s r (cfgTlp type1 write id tag tgt reg be payload) →
    ∃ t, exec .cfgDecode s = .next t ∧ Delivers s t (cfgFields type1 write id tag tgt reg be payload) payload

/-- CFG_DECODE accepts only configuration requests (44_config.md R211, R212). -/
def Obligations.CfgDecodeAcceptsOnlyConfigRequests : Prop :=
  ∀ (s t : State) (r : RequestFile) (bytes : List Byte), HoldsInput s r bytes → Succeeds (exec .cfgDecode s) t →
    ∃ type1 write id tag tgt reg be payload, LegalCfgPayload write payload ∧
      bytes = cfgTlp type1 write id tag tgt reg be payload

/-- The round trips of the configuration commands, both ways, and the index split (44_config.md R212). -/
def Obligations.ConfigurationRoundTrip : Prop :=
  (∀ (s t s' : State) (r r' : RequestFile) (payload out : List Byte), HoldsInput s r payload →
    Succeeds (exec .cfgEncode s) t → OutputIs t.resp out → HoldsInput s' r' out →
    ∃ t', Succeeds (exec .cfgDecode s') t' ∧ t'.resp.cfgType = r.cfgType ∧ t'.resp.cfgWrite = r.cfgWrite ∧
      t'.resp.reqId = r.reqId ∧ t'.resp.tag = r.tag ∧ t'.resp.tgtId = r.tgtId ∧
      t'.resp.regIndex.map BitVec.toNat = r.regIndex.map BitVec.toNat ∧ t'.resp.firstBe = r.firstBe ∧
      OutputIs t'.resp payload) ∧
  (∀ (s t s' : State) (r r' : RequestFile) (bytes payload : List Byte), HoldsInput s r bytes →
    Succeeds (exec .cfgDecode s) t → OutputIs t.resp payload → HoldsInput s' r' payload → r'.cfgType = t.resp.cfgType →
    r'.cfgWrite = t.resp.cfgWrite → r'.reqId = t.resp.reqId → r'.tag = t.resp.tag → r'.tgtId = t.resp.tgtId →
    r'.regIndex.map BitVec.toNat = t.resp.regIndex.map BitVec.toNat → r'.firstBe = t.resp.firstBe →
    ∃ t', Succeeds (exec .cfgEncode s') t' ∧ OutputIs t'.resp bytes) ∧
  (∀ s t : State, Succeeds (exec .cfgDecode s) t → ∃ x n e, t.resp.regIndex = some x ∧ t.resp.regNum = some n ∧
    t.resp.extReg = some e ∧ x.toNat = e.toNat * 64 + n.toNat)

/-! ## The decoders' checks, and DECODE_ANY -/

/-- Each decoder reports the first check that fails, in the order of the table, and succeeds where none does
(45_validation.md R234). -/
def Obligations.DecodersReportTheFirstFailedCheck : Prop :=
  ∀ (s : State) (r : RequestFile) (bytes : List Byte), HoldsInput s r bytes →
    FollowsChecks s (exec .mrdDecode s) (readChecks bytes) ∧ FollowsChecks s (exec .mwrDecode s) (writeChecks bytes) ∧
    FollowsChecks s (exec .cplDecode s) (cplChecks bytes) ∧ FollowsChecks s (exec .cfgDecode s) (cfgChecks bytes)

/-- Each decoder accepts exactly the kinds of its row of the table: for a byte 0 of any other kind it raises
UnsupportedType(FMT_TYPE), for one of its own it never does, and no byte 0 is of two rows (40_header_classify.md R131). -/
def Obligations.DecodersAcceptTheirKindsOnly : Prop :=
  let mrd : List Kind := [.mrd32, .mrd64]
  let mwr : List Kind := [.mwr32, .mwr64]
  let cpl : List Kind := [.cpl, .cplD]
  let cfg : List Kind := [.cfgRd0, .cfgWr0, .cfgRd1, .cfgWr1]
  let accepts (i : Instr) (kinds : List Kind) : Prop :=
    ∀ (s : State) (r : RequestFile) (bytes : List Byte), HoldsInput s r bytes → 4 ≤ bytes.length →
      (kindOf (byteOf bytes 0) ∉ kinds → Raises s (exec i s) .unsupportedType .fmtType) ∧
      (kindOf (byteOf bytes 0) ∈ kinds → ∃ t, exec i s = .next t ∧ t.resp.status ≠ some .unsupportedType)
  accepts .mrdDecode mrd ∧ accepts .mwrDecode mwr ∧ accepts .cplDecode cpl ∧ accepts .cfgDecode cfg ∧
    [mrd, mwr, cpl, cfg].Pairwise List.Disjoint

/-- Changing IN_LEN of a buffer a decoder accepts, to another value the block takes, makes the decoder fail, for its size
(45_validation.md R243 point 4). -/
def Obligations.ChangedInputLengthFails : Prop :=
  ∀ (s t s' : State) (r r' : RequestFile) (bytes bytes' : List Byte) (i : Instr),
    i ∈ [.mrdDecode, .mwrDecode, .cplDecode, .cfgDecode] → HoldsInput s r bytes → Succeeds (exec i s) t →
    HoldsInput s' r' bytes' → bytes'.length ≠ bytes.length → (bytes' <+: bytes ∨ bytes <+: bytes') →
    Raises s' (exec i s') .truncatedBuffer .payload ∨ Raises s' (exec i s') .lengthMismatch .payload ∨
    (bytes'.length < headerSize bytes ∧ Raises s' (exec i s') .malformedHeader .buffer)

/-- DECODE_ANY runs the four decoders on the same request and reports each result; the one success is the winner, and without
one the first result that is not UnsupportedType is the overall error (45_validation.md R241). -/
def Obligations.DecodeAnyReportsEveryCandidate : Prop :=
  ∀ (s : State) (r : RequestFile) (bytes : List Byte), HoldsInput s r bytes →
    ∃ t t0 t1 t2 t3 st0 st1 st2 st3 f0 f1 f2 f3, exec .decodeAny s = .next t ∧
      exec .mrdDecode s = .next t0 ∧ t0.resp.status = some st0 ∧ t0.resp.errField = some f0 ∧
      exec .mwrDecode s = .next t1 ∧ t1.resp.status = some st1 ∧ t1.resp.errField = some f1 ∧
      exec .cplDecode s = .next t2 ∧ t2.resp.status = some st2 ∧ t2.resp.errField = some f2 ∧
      exec .cfgDecode s = .next t3 ∧ t3.resp.status = some st3 ∧ t3.resp.errField = some f3 ∧
      let report (w : BitVec 3) (resp : Response) : Prop := t.resp = { resp with
        candStatus := some ⟨st0, st1, st2, st3⟩
        candField := some ⟨f0, f1, f2, f3⟩
        winner := some w }
      match ([st0, st1, st2, st3].zipIdx.filter fun x => x.1 = .ok).map Prod.snd with
      | [0] => report 0 t0.resp
      | [1] => report 1 t1.resp
      | [2] => report 2 t2.resp
      | [3] => report 3 t3.resp
      | _ =>
        match [(st0, f0), (st1, f1), (st2, f2), (st3, f3)].find? fun x => x.1 ≠ .unsupportedType with
        | some (st, f) => report 7 (errorResponse st f)
        | none => report 7 (errorResponse .unsupportedType .fmtType)

/-- At most one candidate succeeds: with at least 4 bytes, at most one answers anything but UnsupportedType(FMT_TYPE); with
fewer, all four answer MalformedHeader(BUFFER) (45_validation.md R242). -/
def Obligations.AtMostOneCandidateSucceeds : Prop :=
  ∀ (s : State) (r : RequestFile) (bytes : List Byte), HoldsInput s r bytes →
    (4 ≤ bytes.length → ([Instr.mrdDecode, .mwrDecode, .cplDecode, .cfgDecode]).Pairwise fun i j =>
      Raises s (exec i s) .unsupportedType .fmtType ∨ Raises s (exec j s) .unsupportedType .fmtType) ∧
    (bytes.length ≤ 3 → ∀ i ∈ [Instr.mrdDecode, .mwrDecode, .cplDecode, .cfgDecode],
      Raises s (exec i s) .malformedHeader .buffer)

/-- DECODE_ANY, and the TLP_BYTE0 row of the TLP's byte 0, complete on every TLP of the four variants: the winner's fields, the
other three UnsupportedType (45_validation.md R241). That a row of the table runs as a DECODE_ANY is log 5. -/
def Obligations.DecodeAnyDeliversTheWinner : Prop :=
  (∀ (s : State) (r : RequestFile) (n : Nat) (id : BitVec 16) (tag : Byte) (a : BitVec 64) (i : Instr), LegalTransfer n a →
    HoldsInput s r (readTlp n id tag a) → i ∈ [.decodeAny, if needs64 a then .mrd64 else .mrd32] →
    ∃ t, exec i s = .next t ∧ Delivers s t (withVerdict .mrd .ok .noField 0 (readFields n id tag a)) []) ∧
  (∀ (s : State) (r : RequestFile) (payload : List Byte) (id : BitVec 16) (tag : Byte) (a : BitVec 64) (i : Instr),
    LegalTransfer payload.length a → HoldsInput s r (writeTlp payload id tag a) →
    i ∈ [.decodeAny, if needs64 a then .mwr64 else .mwr32] →
    ∃ t, exec i s = .next t ∧ Delivers s t (withVerdict .mwr .ok .noField 1 (writeFields payload id tag a)) payload) ∧
  (∀ (s : State) (r : RequestFile) (cid id : BitVec 16) (st : BitVec 3) (bc : Nat) (tag : Byte) (la : BitVec 7) (i : Instr),
    LegalStatus st → 1 ≤ bc → bc ≤ 4096 → HoldsInput s r (cplTlp cid st bc id tag la) → i ∈ [.decodeAny, .cpl] →
    ∃ t, exec i s = .next t ∧ Delivers s t (withVerdict .cpl .ok .noField 2 (cplFields false cid st bc id tag la [])) []) ∧
  (∀ (s : State) (r : RequestFile) (cid id : BitVec 16) (st : BitVec 3) (bc : Nat) (tag : Byte) (la : BitVec 7)
    (payload : List Byte) (i : Instr), LegalStatus st → 1 ≤ bc → bc ≤ 4096 → LegalCplData bc la payload →
    HoldsInput s r (cplDTlp cid st bc id tag la payload) → i ∈ [.decodeAny, .cplD] →
    ∃ t, exec i s = .next t ∧
      Delivers s t (withVerdict .cpl .ok .noField 2 (cplFields true cid st bc id tag la payload)) payload) ∧
  (∀ (s : State) (r : RequestFile) (type1 write : Bool) (id tgt : BitVec 16) (tag : Byte) (reg : BitVec 10) (be : BitVec 4)
    (payload : List Byte) (i : Instr), LegalCfgPayload write payload →
    HoldsInput s r (cfgTlp type1 write id tag tgt reg be payload) →
    i ∈ [.decodeAny, if write then (if type1 then .cfgWr1 else .cfgWr0) else (if type1 then .cfgRd1 else .cfgRd0)] →
    ∃ t, exec i s = .next t ∧
      Delivers s t (withVerdict .cfg .ok .noField 3 (cfgFields type1 write id tag tgt reg be payload)) payload)

/-- The rows that no variant accepts complete with four UnsupportedType results, whatever their free bits: locked reads and
completions, I/O, trusted configuration, messages, AtomicOps, prefixes, reserved and unlisted pairs
(30_encoding.md R84, R104; 45_validation.md R241). Two things are the model's own: that a row runs as a DECODE_ANY, log 5; and
that a row's meaning trusts the instruction for the kind, so that the statement holds on a buffer of any byte 0, and of the
UNKNOWN row with any free bits, log 21. On a buffer whose byte 0 is the row's, TlpRowIsDecodeAny says that it is DECODE_ANY. -/
def Obligations.RowsWithoutVariantAnswerUnsupported : Prop :=
  ∀ (s : State) (r : RequestFile) (bytes : List Byte) (x : BitVec 3) (y : BitVec 4) (z : BitVec 5) (u : BitVec 6)
    (v : BitVec 7) (i : Instr), HoldsInput s r bytes → 4 ≤ bytes.length →
    i ∈ [.mrdLk32, .mrdLk64, .iord, .iowr, .tcfgRd, .tcfgWr, .msg x, .msgD x, .cplLk, .cplDLk, .fetchAdd32, .fetchAdd64,
      .swap32, .swap64, .cas32, .cas64, .lprfx y, .eprfx y, .reservedFmt5 z, .reservedFmt67 u, .unknown v] →
    ∃ t, exec i s = .next t ∧ Delivers s t { errorResponse .unsupportedType .fmtType with
      candStatus := some ⟨.unsupportedType, .unsupportedType, .unsupportedType, .unsupportedType⟩
      candField := some ⟨.fmtType, .fmtType, .fmtType, .fmtType⟩
      winner := some 7 } []

/-- A TLP_BYTE0 row run on a buffer whose byte 0 is the row's is the DECODE_ANY of that buffer, success or failure
(40_header_classify.md R133; log 5, log 21). -/
def Obligations.TlpRowIsDecodeAny : Prop :=
  ∀ (s : State) (r : RequestFile) (bytes : List Byte) (i : Instr), HoldsInput s r bytes → 4 ≤ bytes.length → i.wf = true →
    encode i = [0x40, byteOf bytes 0] → exec i s = exec .decodeAny s

end Statements
end

