-- ==== Sys2Proof/Laws/Memory.lean ====
section
/-! SUPPORT. The laws of the byte spaces: a read after a write, and the canonical form. -/

namespace Sys2Proof.Machine

open Sys2Proof

@[simp] theorem readByte_nil (a : Nat) : readByte [] a = none := rfl

theorem readByte_cons (b : Nat) (w : Byte) (m : Memory) (a : Nat) :
    readByte ((b, w) :: m) a = if a = b then some w else readByte m a := by
  unfold readByte
  by_cases h : a = b
  · subst h; simp [List.lookup]
  · simp [List.lookup, h, beq_eq_false_iff_ne.mpr h]

/-- A write changes one byte and no other, in any list. -/
theorem readByte_writeByte (m : Memory) (a k : Nat) (v : Byte) :
    readByte (writeByte m a v) k = if k = a then some v else readByte m k := by
  induction m with
  | nil => simp [writeByte, readByte_cons]
  | cons c m ih =>
    obtain ⟨b, w⟩ := c
    unfold writeByte
    split_ifs with h1 h2 h3 h4 h5 <;> simp_all [readByte_cons]

/-- Every address of a sorted space is above its head. -/
theorem sortedCells_cons (a : Nat) (v : Byte) (m : Memory) :
    sortedCells ((a, v) :: m) = true ↔ (∀ c ∈ m, a < c.1) ∧ sortedCells m = true := by
  induction m generalizing a v with
  | nil => simp [sortedCells]
  | cons c m ih =>
    obtain ⟨b, w⟩ := c
    simp only [sortedCells, Bool.and_eq_true, decide_eq_true_eq, List.mem_cons, forall_eq_or_imp]
    constructor
    · rintro ⟨hab, hs⟩
      exact ⟨⟨hab, fun c hc => lt_trans hab ((ih b w).1 hs |>.1 c hc)⟩, hs⟩
    · rintro ⟨⟨hab, -⟩, hs⟩
      exact ⟨hab, hs⟩

/-- The addresses a write can leave: the one written and those there before. -/
theorem mem_writeByte {m : Memory} {a : Nat} {v : Byte} {c : Host.Cell} (h : c ∈ writeByte m a v) :
    c = (a, v) ∨ c ∈ m := by
  induction m with
  | nil => simpa [writeByte] using h
  | cons d m ih =>
    obtain ⟨b, w⟩ := d
    unfold writeByte at h
    split_ifs at h with h1 h2
    · simpa using h
    · rcases List.mem_cons.1 h with h | h
      · exact .inl h
      · exact .inr (List.mem_cons_of_mem _ h)
    · rcases List.mem_cons.1 h with h | h
      · exact .inr (by simp [h])
      · exact (ih h).imp_right (List.mem_cons_of_mem _)

theorem sortedCells_writeByte (m : Memory) (a : Nat) (v : Byte) (h : sortedCells m = true) :
    sortedCells (writeByte m a v) = true := by
  induction m with
  | nil => rfl
  | cons d m ih =>
    obtain ⟨b, w⟩ := d
    have hm := (sortedCells_cons b w m).1 h
    unfold writeByte
    split_ifs with h1 h2
    · exact (sortedCells_cons a v _).2 ⟨by
        intro c hc
        rcases List.mem_cons.1 hc with rfl | hc
        · exact h1
        · exact lt_trans h1 (hm.1 c hc), h⟩
    · subst h2; exact (sortedCells_cons a v m).2 hm
    · refine (sortedCells_cons b w _).2 ⟨fun c hc => ?_, ih hm.2⟩
      rcases mem_writeByte hc with rfl | hc
      · show b < a
        omega
      · exact hm.1 c hc

/-- A host write keeps the canonical form (20_memory.md R60). -/
theorem Memory.wf_writeByte {size : Nat} {m : Memory} {a : Nat} (v : Byte) (hm : Memory.wf size m = true)
    (ha : a < size) : Memory.wf size (writeByte m a v) = true := by
  simp only [Memory.wf, Bool.and_eq_true, List.all_eq_true, decide_eq_true_eq] at hm ⊢
  refine ⟨sortedCells_writeByte m a v hm.1, fun c hc => ?_⟩
  rcases mem_writeByte hc with rfl | hc
  · exact ha
  · exact hm.2 c hc

theorem mem_cellsFrom {bytes : List Byte} {a : Nat} {c : Host.Cell} (h : c ∈ cellsFrom a bytes) :
    a ≤ c.1 ∧ c.1 < a + bytes.length := by
  induction bytes generalizing a with
  | nil => simp [cellsFrom] at h
  | cons v bytes ih =>
    rcases List.mem_cons.1 h with rfl | h
    · simp
    · have := ih h
      simp only [List.length_cons]
      omega

theorem sortedCells_cellsFrom (a : Nat) (bytes : List Byte) : sortedCells (cellsFrom a bytes) = true := by
  induction bytes generalizing a with
  | nil => rfl
  | cons v bytes ih =>
    exact (sortedCells_cons a v _).2 ⟨fun c hc => (mem_cellsFrom hc).1, ih (a + 1)⟩

/-- What an operation puts into OUT_BUF is in canonical form (20_memory.md R60). -/
theorem Memory.wf_outBytes {size : Nat} {bytes : List Byte} (h : bytes.length ≤ size) :
    Memory.wf size (outBytes bytes) = true := by
  simp only [Memory.wf, Bool.and_eq_true, List.all_eq_true, decide_eq_true_eq]
  refine ⟨sortedCells_cellsFrom 0 bytes, fun c hc => ?_⟩
  have := mem_cellsFrom hc
  omega

theorem readByte_cellsFrom (bytes : List Byte) (a k : Nat) :
    readByte (cellsFrom a bytes) k = if k < a then none else bytes[k - a]? := by
  induction bytes generalizing a with
  | nil => simp [cellsFrom]
  | cons v bytes ih =>
    rw [cellsFrom, readByte_cons, ih]
    by_cases h : k = a
    · simp [h]
    · by_cases h2 : k < a
      · simp [h, h2, show k < a + 1 by omega]
      · have h3 : ¬ k < a + 1 := by omega
        have h4 : k - a = (k - (a + 1)) + 1 := by omega
        simp [h, h2, h3, h4]

/-- OUT_BUF holds the bytes delivered and no others (10_state.md R26). -/
@[simp] theorem readByte_outBytes (bytes : List Byte) (k : Nat) : readByte (outBytes bytes) k = bytes[k]? := by
  simp [outBytes, readByte_cellsFrom]

@[simp] theorem length_bufferBytes (m : Memory) (a n : Nat) : (bufferBytes m a n).length = n := by
  induction n generalizing a with
  | zero => rfl
  | succ n ih => simp [bufferBytes, ih]

/-- The bytes of a buffer depend on the bytes of its range alone (20_memory.md R61). -/
theorem bufferBytes_congr {m m' : Memory} {a n : Nat} (h : ∀ k, a ≤ k → k < a + n → readByte m k = readByte m' k) :
    bufferBytes m a n = bufferBytes m' a n := by
  induction n generalizing a with
  | zero => rfl
  | succ n ih =>
    simp only [bufferBytes]
    rw [h a le_rfl (by omega), ih fun k hk hk' => h k (by omega) (by omega)]

theorem bytesWritten_congr {m m' : Memory} {a n : Nat} (h : ∀ k, a ≤ k → k < a + n → readByte m k = readByte m' k) :
    bytesWritten m a n = bytesWritten m' a n := by
  induction n generalizing a with
  | zero => rfl
  | succ n ih =>
    simp only [bytesWritten]
    rw [h a le_rfl (by omega), ih fun k hk hk' => h k (by omega) (by omega)]

/-- A buffer that holds `bytes` from address `a` on gives back `bytes`. -/
theorem bufferBytes_eq {m : Memory} {a : Nat} {bytes : List Byte}
    (h : ∀ k, k < bytes.length → readByte m (a + k) = bytes[k]?) : bufferBytes m a bytes.length = bytes := by
  induction bytes generalizing a with
  | nil => rfl
  | cons v bytes ih =>
    have h0 := h 0 (by simp)
    simp only [Nat.add_zero, List.getElem?_cons_zero] at h0
    simp only [List.length_cons, bufferBytes, h0, Option.getD_some]
    rw [ih]
    intro k hk
    have := h (k + 1) (by simpa using hk)
    rw [List.getElem?_cons_succ] at this
    rw [← this]
    congr 1
    omega

theorem bytesWritten_of {m : Memory} {a n : Nat} (h : ∀ k, a ≤ k → k < a + n → (readByte m k).isSome = true) :
    bytesWritten m a n = true := by
  induction n generalizing a with
  | zero => rfl
  | succ n ih =>
    simp only [bytesWritten, Bool.and_eq_true]
    exact ⟨h a le_rfl (by omega), ih fun k hk hk' => h k (by omega) (by omega)⟩

/-- The spaces of the state after reset are in canonical form. -/
theorem reset_memory_wf : Memory.wf 4112 State.reset.req.inBuf = true ∧ Memory.wf 4112 State.reset.resp.outBuf = true :=
  ⟨rfl, rfl⟩

end Sys2Proof.Machine
end

