-- ==== Sys2Proof/Laws/State.lean ====
section
/-! SUPPORT. One lemma per field for each update of the state and of the response, true by unfolding once. -/

namespace Sys2Proof.Machine

open Sys2Proof

@[simp] theorem deliver_req (s : State) (resp : Response) : (deliver s resp).req = s.req := rfl
@[simp] theorem deliver_captured (s : State) (resp : Response) : (deliver s resp).captured = s.captured := rfl
@[simp] theorem deliver_resp (s : State) (resp : Response) : (deliver s resp).resp = resp := rfl
@[simp] theorem deliver_phase (s : State) (resp : Response) : (deliver s resp).phase = .done := rfl
@[simp] theorem deliver_remaining (s : State) (resp : Response) : (deliver s resp).remaining = 0 := rfl
@[simp] theorem deliver_hostQueue (s : State) (resp : Response) : (deliver s resp).hostQueue = s.hostQueue := rfl
@[simp] theorem deliver_readData (s : State) (resp : Response) : (deliver s resp).readData = s.readData := rfl

@[simp] theorem raiseError_status (e : Raise) : (raiseError e).status = some e.status := rfl
@[simp] theorem raiseError_errField (e : Raise) : (raiseError e).errField = some e.field := rfl
@[simp] theorem raiseError_outLen (e : Raise) : (raiseError e).outLen = none := rfl
@[simp] theorem raiseError_outBuf (e : Raise) : (raiseError e).outBuf = [] := rfl
@[simp] theorem raiseError_candStatus (e : Raise) : (raiseError e).candStatus = none := rfl
@[simp] theorem raiseError_candField (e : Raise) : (raiseError e).candField = none := rfl
@[simp] theorem raiseError_winner (e : Raise) : (raiseError e).winner = none := rfl

@[simp] theorem succeed_status (resp : Response) : (succeed resp).status = some .ok := rfl
@[simp] theorem succeed_errField (resp : Response) : (succeed resp).errField = some .noField := rfl
@[simp] theorem succeed_outLen (resp : Response) : (succeed resp).outLen = resp.outLen := rfl
@[simp] theorem succeed_outBuf (resp : Response) : (succeed resp).outBuf = resp.outBuf := rfl
@[simp] theorem succeed_id16 (resp : Response) : (succeed resp).id16 = resp.id16 := rfl
@[simp] theorem succeed_candStatus (resp : Response) : (succeed resp).candStatus = resp.candStatus := rfl
@[simp] theorem succeed_candField (resp : Response) : (succeed resp).candField = resp.candField := rfl
@[simp] theorem succeed_winner (resp : Response) : (succeed resp).winner = resp.winner := rfl

@[simp] theorem respond_ok (resp : Response) : respond (.ok resp) = succeed resp := rfl
@[simp] theorem respond_error (e : Raise) : respond (.error e) = raiseError e := rfl

@[simp] theorem withCandidates_status (c : PerCandidate (Except Raise Response)) (w : BitVec 3) (resp : Response) :
    (withCandidates c w resp).status = resp.status := rfl
@[simp] theorem withCandidates_errField (c : PerCandidate (Except Raise Response)) (w : BitVec 3) (resp : Response) :
    (withCandidates c w resp).errField = resp.errField := rfl
@[simp] theorem withCandidates_outLen (c : PerCandidate (Except Raise Response)) (w : BitVec 3) (resp : Response) :
    (withCandidates c w resp).outLen = resp.outLen := rfl
@[simp] theorem withCandidates_outBuf (c : PerCandidate (Except Raise Response)) (w : BitVec 3) (resp : Response) :
    (withCandidates c w resp).outBuf = resp.outBuf := rfl
@[simp] theorem withCandidates_winner (c : PerCandidate (Except Raise Response)) (w : BitVec 3) (resp : Response) :
    (withCandidates c w resp).winner = some w := rfl

end Sys2Proof.Machine
end

