-- ==== Sys2Proof/Laws/Operation.lean ====
section
/-! SUPPORT. What the shared operations can do, each said once: running an operation on the captured request, a check of the
pseudocode, the operands of a request that holds a buffer. -/

namespace Sys2Proof.Machine

open Sys2Proof

/-- Everything a run of an operation can do: deliver the response of the captured request, or stop because there is no
request or it lacks a field. -/
theorem complete_cases (i : Instr) (op : Operands → Response) (s : State) :
    (s.captured = none ∧ complete i op s = .fault .noRequest) ∨
    (∃ r, s.captured = some r ∧ fieldsWritten r (fieldsRead i) = false ∧ complete i op s = .fault .unwrittenField) ∨
    (∃ r, s.captured = some r ∧ fieldsWritten r (fieldsRead i) = true ∧
      complete i op s = .next (deliver s (op (operandsOf r)))) := by
  unfold complete
  cases h : s.captured with
  | none => exact .inl ⟨rfl, rfl⟩
  | some r =>
    cases hw : fieldsWritten r (fieldsRead i) with
    | false => exact .inr (.inl ⟨r, rfl, hw, by simp [hw]⟩)
    | true => exact .inr (.inr ⟨r, rfl, hw, by simp [hw]⟩)

theorem complete_next {i : Instr} {op : Operands → Response} {s t : State} (h : complete i op s = .next t) :
    ∃ r, s.captured = some r ∧ fieldsWritten r (fieldsRead i) = true ∧ t = deliver s (op (operandsOf r)) := by
  rcases complete_cases i op s with ⟨-, h'⟩ | ⟨_, -, -, h'⟩ | ⟨r, hr, hw, h'⟩ <;> rw [h'] at h
  · cases h
  · cases h
  · exact ⟨r, hr, hw, by cases h; rfl⟩

theorem complete_eq {i : Instr} {op : Operands → Response} {s : State} {r : RequestFile} (hr : s.captured = some r)
    (hw : fieldsWritten r (fieldsRead i) = true) : complete i op s = .next (deliver s (op (operandsOf r))) := by
  simp [complete, hr, hw]

theorem withinBuffer_of_le {op : Operands → Response} {o : Operands} (h : o.inLen ≤ 4112) : withinBuffer op o = op o := by
  simp [withinBuffer, Config.maxInBytes, Nat.not_lt.2 h]

theorem withinBuffer_of_lt {op : Operands → Response} {o : Operands} (h : 4112 < o.inLen) :
    withinBuffer op o = raiseError ⟨.illegalCommand, .buffer⟩ := by
  simp [withinBuffer, Config.maxInBytes, h]

/-- Every meaning is a run of some operation: what `exec` can do is what `complete` can do. -/
theorem exec_complete (i : Instr) : ∃ op, ∀ s, exec i s = complete i op s := by
  cases i
  case illegalCmd cmd => exact ⟨fun _ => raiseError ⟨.illegalCommand, .cmd⟩, fun _ => rfl⟩
  case msg r => exact ⟨withinBuffer fun o => dispatchKind .msg o.input, fun _ => rfl⟩
  all_goals exact ⟨_, fun _ => rfl⟩

@[simp] theorem require_true (st : Status) (f : ErrField) : require true st f = .ok () := rfl
@[simp] theorem require_false (st : Status) (f : ErrField) : require false st f = .error ⟨st, f⟩ := rfl

theorem require_eq_ok {c : Bool} {st : Status} {f : ErrField} {u : Unit} : require c st f = .ok u ↔ c = true := by
  cases c <;> simp

@[simp] theorem except_ok_bind {α β : Type} (a : α) (g : α → Except Raise β) : (Except.ok a >>= g) = g a := rfl
@[simp] theorem except_error_bind {α β : Type} (e : Raise) (g : α → Except Raise β) :
    (Except.error e >>= g) = Except.error e := rfl

/-- A sequence of checks succeeds where its first succeeds and then the rest does. -/
theorem except_bind_eq_ok {α β : Type} {x : Except Raise α} {g : α → Except Raise β} {b : β} :
    (x >>= g) = .ok b ↔ ∃ a, x = .ok a ∧ g a = .ok b := by
  cases x <;> simp

theorem meaningfulBytes_of {r : RequestFile} {l : BitVec 13} (hl : r.inLen = some l) (h : l.toNat ≤ 4112) :
    meaningfulBytes r = l.toNat := by
  simp [meaningfulBytes, hl, Config.maxInBytes, h]

/-- What every instruction can do: deliver a response of the captured request, or stop as `complete` stops. -/
theorem exec_next {i : Instr} {s t : State} (h : exec i s = .next t) :
    ∃ r resp, s.captured = some r ∧ fieldsWritten r (fieldsRead i) = true ∧ t = deliver s resp := by
  obtain ⟨op, hop⟩ := exec_complete i
  rw [hop] at h
  obtain ⟨r, hr, hw, ht⟩ := complete_next h
  exact ⟨r, op (operandsOf r), hr, hw, ht⟩

/-- Where the prologue passes: the buffer has 4 bytes, the kind is accepted and the header is there
(45_validation.md R230, R231). -/
theorem decodePrologue_ok {accepts : Kind → Bool} {kind : Kind} {tlp : List Byte} {u : Unit} :
    decodePrologue accepts kind tlp = .ok u ↔ 4 ≤ tlp.length ∧ accepts kind = true ∧ headerBytes tlp ≤ tlp.length := by
  simp only [decodePrologue, except_bind_eq_ok, require_eq_ok]
  constructor
  · rintro ⟨_, h1, _, h2, h3⟩
    exact ⟨of_decide_eq_true h1, h2, of_decide_eq_true h3⟩
  · rintro ⟨h1, h2, h3⟩
    exact ⟨(), decide_eq_true h1, (), h2, decide_eq_true h3⟩

/-- Where the payload check passes: exactly `need` bytes follow the header (45_validation.md R233). -/
theorem checkPayload_ok {tlp : List Byte} {hdr need : Nat} {u : Unit} :
    checkPayload tlp hdr need = .ok u ↔ tlp.length - hdr = need := by
  simp only [checkPayload, except_bind_eq_ok, require_eq_ok]
  constructor
  · rintro ⟨_, h1, h2⟩
    have := of_decide_eq_true h1
    have := of_decide_eq_true h2
    omega
  · intro h
    exact ⟨(), decide_eq_true (by omega), decide_eq_true (by omega)⟩

theorem checkMbz_ok {kind : Kind} {tlp : List Byte} {u : Unit} : checkMbz kind tlp = .ok u ↔ mbzClear kind tlp = true :=
  require_eq_ok

theorem bytesWritten_iff (m : Memory) (a n : Nat) :
    bytesWritten m a n = true ↔ ∀ k, a ≤ k → k < a + n → (readByte m k).isSome = true := by
  refine ⟨?_, bytesWritten_of⟩
  induction n generalizing a with
  | zero =>
    intro _ k hk hk'
    omega
  | succ n ih =>
    simp only [bytesWritten, Bool.and_eq_true]
    rintro ⟨h0, h⟩ k hk hk'
    rcases Nat.eq_or_lt_of_le hk with rfl | h'
    · exact h0
    · exact ih (a + 1) h k h' (by omega)

end Sys2Proof.Machine
end

