-- ==== Sys2Proof/Laws/PerInstr.lean ====
section
/-! SUPPORT. A statement about every instruction as syntax, proved one constructor at a time: a TLP_BYTE0 row is encoded as
DECODE_ANY's code and a byte 0 whose KIND is the row's (30_encoding.md R84; 40_header_classify.md R130). -/

namespace Sys2Proof.Laws.ByteZeroKind

open Sys2Proof Sys2Proof.Machine

/-- A well-formed instruction that has a KIND is the code 0x40 and one byte 0, and `kindOf` gives that byte the KIND. -/
def Statement (i : Instr) : Prop :=
  i.wf = true → ∀ k, rowKind i = some k → ∃ b, encode i = [decodeAnyCode, b] ∧ kindOf b = k

/-- A command has no KIND. -/
theorem of_command {i : Instr} (h : rowKind i = none) : Statement i := by
  intro _ k hk
  rw [h] at hk
  cases hk

/-- A row that is encoded as the byte `b` of its KIND. -/
theorem of_row {i : Instr} {b : Byte} {k : Kind} (he : encode i = tlpImage b) (hr : rowKind i = some k) (hk : kindOf b = k) :
    Statement i := by
  intro _ k' hk'
  rw [hr] at hk'
  cases hk'
  exact ⟨b, he, hk⟩

theorem classify : Statement .classify := of_command rfl
theorem devidPack : Statement .devidPack := of_command rfl
theorem devidUnpack : Statement .devidUnpack := of_command rfl
theorem devidParse : Statement .devidParse := of_command rfl
theorem devidFormat : Statement .devidFormat := of_command rfl
theorem mrdEncode : Statement .mrdEncode := of_command rfl
theorem mwrEncode : Statement .mwrEncode := of_command rfl
theorem mrdDecode : Statement .mrdDecode := of_command rfl
theorem mwrDecode : Statement .mwrDecode := of_command rfl
theorem cplEncode : Statement .cplEncode := of_command rfl
theorem cplDecode : Statement .cplDecode := of_command rfl
theorem cfgEncode : Statement .cfgEncode := of_command rfl
theorem cfgDecode : Statement .cfgDecode := of_command rfl
theorem decodeAny : Statement .decodeAny := of_command rfl
theorem illegalCmd (cmd : BitVec 8) : Statement (.illegalCmd cmd) := of_command rfl
theorem mrd32 : Statement .mrd32 := of_row rfl rfl (by decide)
theorem mrd64 : Statement .mrd64 := of_row rfl rfl (by decide)
theorem mrdLk32 : Statement .mrdLk32 := of_row rfl rfl (by decide)
theorem mrdLk64 : Statement .mrdLk64 := of_row rfl rfl (by decide)
theorem mwr32 : Statement .mwr32 := of_row rfl rfl (by decide)
theorem mwr64 : Statement .mwr64 := of_row rfl rfl (by decide)
theorem iord : Statement .iord := of_row rfl rfl (by decide)
theorem iowr : Statement .iowr := of_row rfl rfl (by decide)
theorem cfgRd0 : Statement .cfgRd0 := of_row rfl rfl (by decide)
theorem cfgWr0 : Statement .cfgWr0 := of_row rfl rfl (by decide)
theorem cfgRd1 : Statement .cfgRd1 := of_row rfl rfl (by decide)
theorem cfgWr1 : Statement .cfgWr1 := of_row rfl rfl (by decide)
theorem tcfgRd : Statement .tcfgRd := of_row rfl rfl (by decide)
theorem tcfgWr : Statement .tcfgWr := of_row rfl rfl (by decide)
theorem msg (routing : BitVec 3) : Statement (.msg routing) := of_row rfl rfl (by revert routing; decide)
theorem msgD (routing : BitVec 3) : Statement (.msgD routing) := of_row rfl rfl (by revert routing; decide)
theorem cpl : Statement .cpl := of_row rfl rfl (by decide)
theorem cplD : Statement .cplD := of_row rfl rfl (by decide)
theorem cplLk : Statement .cplLk := of_row rfl rfl (by decide)
theorem cplDLk : Statement .cplDLk := of_row rfl rfl (by decide)
theorem fetchAdd32 : Statement .fetchAdd32 := of_row rfl rfl (by decide)
theorem fetchAdd64 : Statement .fetchAdd64 := of_row rfl rfl (by decide)
theorem swap32 : Statement .swap32 := of_row rfl rfl (by decide)
theorem swap64 : Statement .swap64 := of_row rfl rfl (by decide)
theorem cas32 : Statement .cas32 := of_row rfl rfl (by decide)
theorem cas64 : Statement .cas64 := of_row rfl rfl (by decide)
theorem lprfx (subtype : BitVec 4) : Statement (.lprfx subtype) := of_row rfl rfl (by revert subtype; decide)
theorem eprfx (subtype : BitVec 4) : Statement (.eprfx subtype) := of_row rfl rfl (by revert subtype; decide)
theorem reservedFmt5 (low : BitVec 5) : Statement (.reservedFmt5 low) := of_row rfl rfl (by revert low; decide)
theorem reservedFmt67 (low : BitVec 6) : Statement (.reservedFmt67 low) := of_row rfl rfl (by revert low; decide)
theorem unknown (low : BitVec 7) : Statement (.unknown low) := by
  intro hw
  have h : ∀ l : BitVec 7, (Instr.unknown l).wf = true → kindOf (0b0#1 ++ l) = .unknown := by decide
  exact of_row rfl rfl (h low hw) hw

end Sys2Proof.Laws.ByteZeroKind
end

