-- ==== Sys2Proof/Laws/Step.lean ====
section
/-! SUPPORT. What a step can do, said once for each action of the host and for the block's own step, and what several steps
do. -/

namespace Sys2Proof.Machine

open Sys2Proof

/-- A host write stores the value or faults, and stores nothing else (10_state.md R23, R24). -/
theorem hostWrite_next {w : HostWrite} {s t : State} (h : hostWrite w s = .next t) :
    writeExists w = true ∧ t = { s with req := writeRequest s.req w } := by
  unfold hostWrite at h
  split at h
  · exact ⟨‹_›, by cases h; rfl⟩
  · cases h

/-- START is ignored while BUSY, and else captures a request that has all its operands (10_state.md R31, R32). -/
theorem hostStart_next {s t : State} (h : hostStart s = .next t) :
    (s.phase = .busy ∧ t = s) ∨
    (s.phase ≠ .busy ∧ requestReady s.req = true ∧ t = { s with
      captured := some s.req
      resp := .invalid
      phase := .busy
      remaining := Config.latency s.req }) := by
  unfold hostStart at h
  split at h
  · exact .inl ⟨‹_›, by cases h; rfl⟩
  · split at h
    · exact .inr ⟨‹_›, ‹_›, by cases h; rfl⟩
    · cases h

/-- A host read changes nothing of the block (20_memory.md R67). -/
theorem hostRead_next {f : RespField} {s t : State} (h : hostRead f s = .next t) :
    ∃ v, respValue s.resp f = some v ∧ t = { s with readData := some v } := by
  unfold hostRead at h
  split at h
  · rename_i v hv
    exact ⟨v, hv, by cases h; rfl⟩
  · cases h

/-- The finish runs the decoded image, or stops because there is none (10_state.md R33). -/
theorem finish_next {s t : State} (h : finish s = .next t) :
    ∃ image i, fetchImage s = .ok image ∧ decode image = .ok i ∧ exec i s = .next t := by
  unfold finish at h
  split at h
  · cases h
  · rename_i image hf
    split at h
    · cases h
    · rename_i i hd
      exact ⟨image, i, hf, hd, h⟩

/-- The block's own step: stay, count down, or finish (10_state.md R33, 60_exceptions.md R264). -/
theorem blockStep_next {s t : State} (h : blockStep s = .next t) :
    (s.phase ≠ .busy ∧ t = s) ∨
    (s.phase = .busy ∧ 1 < s.remaining ∧ t = { s with remaining := s.remaining - 1 }) ∨
    (s.phase = .busy ∧ s.remaining ≤ 1 ∧ finish s = .next t) := by
  unfold blockStep at h
  cases hp : s.phase with
  | idle => rw [hp] at h; exact .inl ⟨by simp, by cases h; rfl⟩
  | done => rw [hp] at h; exact .inl ⟨by simp, by cases h; rfl⟩
  | busy =>
    rw [hp] at h
    simp only at h
    split at h
    · exact .inr (.inl ⟨rfl, ‹_›, by cases h; rfl⟩)
    · exact .inr (.inr ⟨rfl, by omega, h⟩)

/-- A step is the host's next action on the state without it, or the block's own step. -/
theorem step_cases (s : State) : (s.hostQueue = [] ∧ step s = blockStep s) ∨
    ∃ a rest, s.hostQueue = a :: rest ∧ step s = hostStep a { s with hostQueue := rest } := by
  unfold step machineStep
  cases h : s.hostQueue with
  | nil => exact .inl ⟨rfl, rfl⟩
  | cons a rest => exact .inr ⟨a, rest, rfl, rfl⟩

/-- A code of the table decodes to its row. -/
theorem decodeCommand_of_row {c : Byte} {i : Instr} (h : commandRows.lookup c = some i) : decodeCommand c = i := by
  simp [decodeCommand, h]

/-- Steps of the interface's machine after a first one that answers. -/
theorem core_run_next (M : Host.Core) {s t : M.State} (k : Nat) (h : M.step s = .next t) : M.run (k + 1) s = M.run k t := by
  simp only [Host.Core.run, h]

/-- Steps of the interface's machine after a first one that faults. -/
theorem core_run_fault (M : Host.Core) {s : M.State} {r : M.Fault} (k : Nat) (h : M.step s = .fault r) :
    M.run (k + 1) s = .fault r := by
  simp only [Host.Core.run, h]

/-- Steps of the interface's machine after a first one that refuses. -/
theorem core_run_refused (M : Host.Core) {s : M.State} {r : M.Refusal} (k : Nat) (h : M.step s = .refused r) :
    M.run (k + 1) s = .refused r := by
  simp only [Host.Core.run, h]

open Safety

/-- After a first step that answers, the rest are steps of what it answers. -/
theorem runSteps_next {s t : State} (k : Nat) (h : step s = .next t) : runSteps (k + 1) s = runSteps k t :=
  core_run_next Sys2Proof.core k h

/-- Steps are counted by addition. -/
theorem runSteps_add {s t : State} (j k : Nat) (h : runSteps j s = .next t) : runSteps (j + k) s = runSteps k t := by
  induction j generalizing s with
  | zero => cases h; rw [Nat.zero_add]
  | succ j ih =>
    have hk : j + 1 + k = (j + k) + 1 := by omega
    cases hs : step s with
    | next u => rw [hk, runSteps_next _ hs, ih (runSteps_next j hs ▸ h)]
    | fault r => cases (core_run_fault Sys2Proof.core j hs).symm.trans h
    | refused r => cases (core_run_refused Sys2Proof.core j hs).symm.trans h

end Sys2Proof.Machine
end

