-- ==== Sys2Proof/Tests/Slice0.lean ====
section
/-! SUPPORT. The model's own tests: the well-formedness smoke test, a word of every constructor written out from the encoding
tables, one or two of the spec's vectors (95_test_vectors.md, named in each comment) for each instruction, the handshake, and a
witness for the hypotheses of each obligation. -/

namespace Sys2Proof.Tests

open Sys2Proof Sys2Proof.Machine Sys2Proof.Safety

/-! ## Well-formedness -/

/-- CMD 0x01 is CLASSIFY's code. -/
theorem test_illegalCmd_of_a_code_is_refused : (Instr.illegalCmd 0x01).wf = false := by decide

theorem test_illegalCmd_of_no_code_is_accepted : (Instr.illegalCmd 0xFF).wf = true := by decide

/-- Byte 0 = 0x00 is MRd32. -/
theorem test_unknown_of_an_exact_row_is_refused : (Instr.unknown 0x00).wf = false := by decide

/-- Byte 0 = 0x35 is Msg. -/
theorem test_unknown_of_a_message_is_refused : (Instr.unknown 0x35).wf = false := by decide

theorem test_unknown_of_no_row_is_accepted : (Instr.unknown 0x03).wf = true := by decide

/-! ## Decoding: words from the code table (R110) and the kind table (R84) -/

theorem test_decode_commands :
    [0x01, 0x02, 0x03, 0x04, 0x05, 0x10, 0x11, 0x12, 0x13, 0x20, 0x21, 0x30, 0x31, 0x40, 0x06].map (fun c => (decode [c]).toOption) =
    [Instr.classify, .devidPack, .devidUnpack, .devidParse, .devidFormat, .mrdEncode, .mwrEncode, .mrdDecode, .mwrDecode,
      .cplEncode, .cplDecode, .cfgEncode, .cfgDecode, .decodeAny, .illegalCmd 0x06].map some := by decide

/-- Fmt in bits 7:5, Type in bits 4:0, as the kind table lists them. -/
theorem test_decode_byte0 :
    [0b00000000, 0b00100000, 0b00000001, 0b00100001, 0b01000000, 0b01100000, 0b00000010, 0b01000010, 0b00000100, 0b01000100,
      0b00000101, 0b01000101, 0b00011011, 0b01011011].map (fun b => (decode [0x40, b]).toOption) =
    [Instr.mrd32, .mrd64, .mrdLk32, .mrdLk64, .mwr32, .mwr64, .iord, .iowr, .cfgRd0, .cfgWr0, .cfgRd1, .cfgWr1, .tcfgRd,
      .tcfgWr].map some := by decide

theorem test_decode_byte0_more :
    [0b00110010, 0b01110111, 0b00001010, 0b01001010, 0b00001011, 0b01001011, 0b01001100, 0b01101100, 0b01001101, 0b01101101,
      0b01001110, 0b01101110, 0b10000011, 0b10011111, 0b10100001, 0b11100001, 0b00000011].map
        (fun b => (decode [0x40, b]).toOption) =
    [Instr.msg 2, .msgD 7, .cpl, .cplD, .cplLk, .cplDLk, .fetchAdd32, .fetchAdd64, .swap32, .swap64, .cas32, .cas64,
      .lprfx 3, .eprfx 15, .reservedFmt5 1, .reservedFmt67 33, .unknown 3].map some := by decide

theorem test_decode_refuses_by_name :
    (match decode [] with | .error e => some e | .ok _ => none) = some .noCommand ∧
    (match decode [0x01, 0x00] with | .error e => some e | .ok _ => none) = some .trailingBytes := by decide

/-- The numbers of the codes are those of 60_exceptions.md R250, R251 and 30_encoding.md R84. -/
theorem test_code_numbers :
    [Status.ok, .malformedHeader, .truncatedBuffer, .lengthMismatch, .invalidAddress, .invalidLength, .invalidDeviceIdFormat,
      .invalidCompletionStatus, .unsupportedType, .illegalCommand].map statusCode = List.range 10 ∧
    [ErrField.noField, .cmd, .buffer, .fmtType, .reservedBits, .length, .firstBe, .lastBe, .address, .widthSel, .payload,
      .cplStatus, .byteCount, .regIndex, .devidBus, .devidDev, .devidFunc, .devidString].map errFieldCode = List.range 18 := by
  decide

/-! ## One operation, from the spec's vectors -/

/-- A request with every operand 0 but the command and the input. -/
def request (cmd : Byte) (input : List Byte) : RequestFile := zeroRequest cmd input

/-- The state whose next step finishes the operation of `r`. -/
def running (r : RequestFile) : State :=
  { State.reset with
    captured := some r
    phase := .busy
    remaining := 1 }

/-- The response of the operation of `r`. -/
def answer (r : RequestFile) : Option Response :=
  match step (running r) with
  | .next t => some t.resp
  | _ => none

/-- STATUS and ERR_FIELD. -/
def verdictOf (r : RequestFile) : Option (Option Status × Option ErrField) := (answer r).map fun x => (x.status, x.errField)

/-- OUT_LEN and the bytes of OUT_BUF. -/
def outOf (r : RequestFile) : Option (Option (BitVec 13) × List Byte) :=
  (answer r).map fun x => (x.outLen, x.outBuf.map Prod.snd)

/-- CLS-2. -/
theorem test_classify : (answer (request 0x01 [0x20, 0x00, 0x00, 0x02])).map (fun x =>
    ((x.fmt, x.type, x.kind), x.hasPayload, x.addr64, x.hdrDw)) =
    some ((some 1, some 0, some .mrd64), some false, some true, some 4) := by decide

/-- CLS-18 and CLS-23. -/
theorem test_classify_edges : (answer (request 0x01 [0x9f, 0x00, 0x00, 0x00])).map (fun x => (x.kind, x.hdrDw, x.addr64)) =
    some (some .eprfx, some 1, some false) ∧
    verdictOf (request 0x01 [0x20, 0x00, 0x00]) = some (some .malformedHeader, some .buffer) := by decide

/-- DEV-1. -/
theorem test_devidPack : (answer { request 0x02 [] with bus := some 3, dev := some 4, func := some 4 }).map (fun x =>
    (x.id16, x.bus, x.dev, x.func)) = some (some 0x0324, some 3, some 4, some 4) := by decide

/-- DEV-7. -/
theorem test_devidPack_first_failure : verdictOf { request 0x02 [] with bus := some 256, dev := some 40, func := some 9 } =
    some (some .invalidDeviceIdFormat, some .devidBus) := by decide

/-- DEV-8 and DEV-12. -/
theorem test_devidUnpack : (answer { request 0x03 [] with id16 := some 0x0324 }).map (fun x => (x.bus, x.dev, x.func)) =
    some (some 3, some 4, some 4) ∧
    (answer { request 0x03 [] with id16 := some 0x0008 }).map (fun x => (x.bus, x.dev, x.func)) =
    some (some 0, some 1, some 0) := by decide

/-- DEV-19. -/
theorem test_devidParse : (answer (request 0x04 [0x30, 0x61, 0x3a, 0x31, 0x62, 0x2e, 0x33])).map (fun x => x.id16) =
    some (some 0x0adb) := by decide

/-- DEV-24 and DEV-22. -/
theorem test_devidParse_errors :
    verdictOf (request 0x04 [0x30, 0x33, 0x3a, 0x30, 0x34]) = some (some .invalidDeviceIdFormat, some .devidString) ∧
    verdictOf (request 0x04 [0x30, 0x33, 0x3a, 0x30, 0x34, 0x2e, 0x66]) =
      some (some .invalidDeviceIdFormat, some .devidFunc) := by decide

/-- DEV-33. -/
theorem test_devidFormat : outOf { request 0x05 [] with id16 := some 0x0a1b } =
    some (some 7, [0x30, 0x61, 0x3a, 0x30, 0x33, 0x2e, 0x33]) := by decide

/-- MRE-5. -/
theorem test_mrdEncode : outOf { request 0x10 [] with reqId := some 0x0100, tag := some 5, addr := some 0x1000, byteCount := some 5 } =
    some (some 12, [0x00, 0x00, 0x00, 0x02, 0x01, 0x00, 0x05, 0x1f, 0x00, 0x00, 0x10, 0x00]) := by decide

/-- MRE-16. -/
theorem test_mrdEncode_64 : outOf { request 0x10 [] with
      reqId := some 0x0324
      tag := some 0x89
      addr := some 0x18aaffeeddccbba8
      byteCount := some 8 } =
    some (some 16, [0x20, 0x00, 0x00, 0x02, 0x03, 0x24, 0x89, 0xff, 0x18, 0xaa, 0xff, 0xee, 0xdd, 0xcc, 0xbb, 0xa8]) := by decide

/-- MWE-1. -/
theorem test_mwrEncode : outOf { request 0x11 [0xde, 0xad, 0xbe] with
      reqId := some 0x0324
      tag := some 1
      addr := some 0x2000 } =
    some (some 16, [0x40, 0x00, 0x00, 0x01, 0x03, 0x24, 0x01, 0x07, 0x00, 0x00, 0x20, 0x00, 0xde, 0xad, 0xbe, 0x00]) := by decide

/-- MWE-8. -/
theorem test_mwrEncode_width : verdictOf { request 0x11 [0xaa] with addr := some 0x2000, widthSel := some 2 } =
    some (some .invalidAddress, some .address) := by decide

/-- L1-1. -/
theorem test_mrdDecode : (answer (request 0x12 [0x20, 0x00, 0x00, 0x02, 0x03, 0x24, 0x89, 0xff, 0x18, 0xaa, 0xff, 0xee, 0xdd, 0xcc,
    0xbb, 0xa8])).map (fun x => (x.reqId, x.tag, x.addr, x.lengthDw, x.byteCount)) =
    some (some 0x0324, some 0x89, some 0x18aaffeeddccbba8, some 2, some 8) := by decide

/-- MRD-13. -/
theorem test_mrdDecode_zero_upper : verdictOf (request 0x12 [0x20, 0x00, 0x00, 0x01, 0x01, 0x00, 0x05, 0x01, 0x00, 0x00, 0x00, 0x00,
    0x00, 0x00, 0x10, 0x00]) = some (some .invalidAddress, some .address) := by decide

/-- MWD-1. -/
theorem test_mwrDecode : outOf (request 0x13 [0x40, 0x00, 0x00, 0x02, 0x03, 0x24, 0x02, 0x3f, 0x00, 0x00, 0x20, 0x00, 0x01, 0x02,
    0x03, 0x04, 0x05, 0x06, 0x00, 0x00]) = some (some 6, [0x01, 0x02, 0x03, 0x04, 0x05, 0x06]) := by decide

/-- MWD-3. -/
theorem test_mwrDecode_pad : verdictOf (request 0x13 [0x40, 0x00, 0x00, 0x01, 0x03, 0x24, 0x01, 0x07, 0x00, 0x00, 0x20, 0x00, 0xde,
    0xad, 0xbe, 0x01]) = some (some .malformedHeader, some .payload) := by decide

/-- CPL-E1. -/
theorem test_cplEncode : outOf { request 0x20 [0x11, 0x22, 0x33, 0x44] with
      cplId := some 0x0100
      byteCount := some 4
      reqId := some 0x0324
      tag := some 0x89
      hasData := some true } =
    some (some 16, [0x4a, 0x00, 0x00, 0x01, 0x01, 0x00, 0x00, 0x04, 0x03, 0x24, 0x89, 0x00, 0x11, 0x22, 0x33, 0x44]) := by decide

/-- CPL-E12. -/
theorem test_cplEncode_count : verdictOf { request 0x20 [0x11, 0x22, 0x33, 0x44, 0x55, 0x66, 0x77, 0x88] with
      byteCount := some 1
      lowerAddr := some 3
      hasData := some true } = some (some .lengthMismatch, some .byteCount) := by decide

/-- CPL-D2. -/
theorem test_cplDecode : (answer (request 0x21 [0x0a, 0x00, 0x00, 0x00, 0x01, 0x00, 0x20, 0x04, 0x03, 0x24, 0x07, 0x00])).map
    (fun x => ((x.cplId, x.cplStatus, x.byteCount), x.reqId, x.tag, x.lengthDw)) =
    some ((some 0x0100, some 1, some 4), some 0x0324, some 0x07, some 0) := by decide

/-- CPL-D5. -/
theorem test_cplDecode_length : verdictOf (request 0x21 [0x0a, 0x00, 0x00, 0x01, 0x01, 0x00, 0x00, 0x04, 0x03, 0x24, 0x07, 0x00]) =
    some (some .lengthMismatch, some .length) := by decide

/-- CFG-E3. -/
theorem test_cfgEncode : outOf { request 0x30 [0xaa, 0xbb, 0x00, 0x00] with
      cfgType := some true
      cfgWrite := some true
      tag := some 2
      tgtId := some 0x0200
      regIndex := some 0x41
      firstBe := some 3 } =
    some (some 16, [0x45, 0x00, 0x00, 0x01, 0x00, 0x00, 0x02, 0x03, 0x02, 0x00, 0x01, 0x04, 0xaa, 0xbb, 0x00, 0x00]) := by decide

/-- CFG-E6. -/
theorem test_cfgEncode_index : verdictOf { request 0x30 [] with regIndex := some 1024 } =
    some (some .invalidAddress, some .regIndex) := by decide

/-- CFG-D2. -/
theorem test_cfgDecode : (answer (request 0x31 [0x45, 0x00, 0x00, 0x01, 0x00, 0x00, 0x02, 0x03, 0x02, 0x00, 0x01, 0x04, 0xaa, 0xbb,
    0x00, 0x00])).map (fun x => ((x.cfgType, x.cfgWrite, x.firstBe), (x.tgtId, x.regIndex), x.extReg)) =
    some ((some true, some true, some 3), (some 0x0200, some 65), some 1) := by decide

/-- CFG-D7. -/
theorem test_cfgDecode_last_be : verdictOf (request 0x31 [0x04, 0x00, 0x00, 0x01, 0x00, 0x00, 0x01, 0x1f, 0x03, 0x18, 0x00, 0x00]) =
    some (some .malformedHeader, some .lastBe) := by decide

/-- ANY-4. -/
theorem test_decodeAny : (answer (request 0x40 [0x4a, 0x00, 0x00, 0x01, 0x01, 0x00, 0x00, 0x04, 0x03, 0x24, 0x89, 0x00, 0x11, 0x22,
    0x33, 0x44])).map (fun x => (x.winner, x.candStatus, x.candField, x.outLen)) =
    some (some 2, some ⟨.unsupportedType, .unsupportedType, .ok, .unsupportedType⟩,
      some ⟨.fmtType, .fmtType, .noField, .fmtType⟩, some 4) := by decide

/-- ANY-6. -/
theorem test_decodeAny_short : (answer (request 0x40 [0x20, 0x00, 0x00])).map (fun x => (x.status, x.winner, x.candStatus)) =
    some (some .malformedHeader, some 7,
      some ⟨.malformedHeader, .malformedHeader, .malformedHeader, .malformedHeader⟩) := by decide

/-- EXE-3 and EXE-5. -/
theorem test_illegal_commands : verdictOf (request 0x06 []) = some (some .illegalCommand, some .cmd) ∧
    verdictOf { request 0x02 [] with inLen := some 8191 } = some (some .illegalCommand, some .buffer) := by decide

/-- ANY-1, ANY-2, ANY-3, ANY-4 and ANY-5, and their like: the winner of a TLP of each accepted row (R131). -/
theorem test_rows_with_a_variant :
    [[0x00, 0, 0, 1, 1, 0, 5, 1, 0, 0, 0x10, 0], [0x20, 0, 0, 1, 1, 0, 5, 1, 0, 0, 0, 1, 0, 0, 0x10, 0],
      [0x40, 0, 0, 1, 3, 0x24, 1, 7, 0, 0, 0x20, 0, 0xde, 0xad, 0xbe, 0], [0x0a, 0, 0, 0, 1, 0, 0x20, 4, 3, 0x24, 7, 0],
      [0x60, 0, 0, 1, 0, 0, 0, 0xf, 0, 0, 0, 1, 0, 0, 0, 0, 1, 2, 3, 4], [0x04, 0, 0, 1, 0, 0, 1, 0xf, 3, 0x18, 0, 0],
      [0x05, 0, 0, 1, 0, 0, 2, 0, 2, 0, 0, 0x10], [0x44, 0, 0, 1, 1, 0, 9, 0xf, 0, 8, 0xf, 0xfc, 1, 2, 3, 4],
      [0x45, 0, 0, 1, 0, 0, 2, 3, 2, 0, 1, 4, 1, 2, 3, 4]].map (fun b => (answer (request 0x40 b)).map fun x => (x.winner, x.kind)) =
    [some (some 0, some .mrd32), some (some 0, some .mrd64), some (some 1, some .mwr32), some (some 2, some .cpl),
      some (some 1, some .mwr64), some (some 3, some .cfgRd0), some (some 3, some .cfgRd1), some (some 3, some .cfgWr0),
      some (some 3, some .cfgWr1)] := by decide

/-- ANY-10, ANY-11, ANY-12 and their like: a byte 0 of each row without a variant (R131). -/
theorem test_rows_without_a_variant :
    [0x01, 0x21, 0x02, 0x42, 0x1b, 0x5b, 0x30, 0x77, 0x0b, 0x4b, 0x4c, 0x6c, 0x4d, 0x6d, 0x4e, 0x6e, 0x8f, 0x90, 0xa0, 0xe0,
      0x24].all (fun b => verdictOf (request 0x40 [b, 0, 0, 0]) == some (some .unsupportedType, some .fmtType)) = true := by decide

/-! ## The handshake -/

/-- P4 step 4: START with no request field written. -/
theorem test_start_from_reset_faults : (match step { State.reset with hostQueue := [.start] } with
    | .fault f => some f
    | _ => none) = some .unwrittenField := by decide

/-- P4 steps 2 and 3: reset while BUSY abandons the operation. -/
theorem test_reset_while_busy : (match step { running (request 0x05 []) with hostQueue := [.reset] } with
    | .next t => some (t.phase, t.captured, t.resp.status)
    | _ => none) = some (.idle, none, none) := by decide

/-- P3 step 1b: START while BUSY is ignored, and the captured request stays. -/
theorem test_start_while_busy : (match step { running (request 0x05 []) with hostQueue := [.start], req := request 0x31 [] } with
    | .next t => some (t.phase, t.captured)
    | _ => none) = some (.busy, some (request 0x05 [])) := by decide

/-- A word of the table runs as the next step (CMD 0x05, DEVID_FORMAT of 0; DEV-31). -/
theorem test_withFetchWord : (match step (State.reset.withFetchWord 8 0x05) with
    | .next t => some (t.phase, t.resp.outBuf.map Prod.snd)
    | _ => none) = some (.done, [0x30, 0x30, 0x3a, 0x30, 0x30, 0x2e, 0x30]) := by decide

/-! ## Witnesses: the hypotheses of each obligation are met -/

theorem holdsInput_running {r : RequestFile} {bytes : List Byte} (hc : r.cmd.isSome = true)
    (hl : r.inLen = some (BitVec.ofNat 13 bytes.length)) (hb : r.inBuf = cellsFrom 0 bytes) (h : bytes.length ≤ 4112) :
    HoldsInput (running r) r bytes :=
  ⟨rfl, hc, hl, h, fun k _ => by rw [hb]; exact readByte_outBytes bytes k⟩

theorem holdsLength_running {r : RequestFile} {l : BitVec 13} (hc : r.cmd.isSome = true) (hl : r.inLen = some l)
    (h : l.toNat ≤ 4112) : HoldsLength (running r) r l.toNat :=
  ⟨rfl, hc, ⟨l, hl, rfl⟩, h⟩

theorem outputIs_of {resp : Response} {bytes : List Byte} (hl : resp.outLen = some (BitVec.ofNat 13 bytes.length))
    (hb : resp.outBuf = cellsFrom 0 bytes) (h : bytes.length ≤ 4112) : OutputIs resp bytes :=
  ⟨hl, h, fun k => by rw [hb]; exact readByte_outBytes bytes k⟩

/-- A request whose operands are all there. -/
theorem not_missing_format : ¬ MissingOperand (request 0x05 []) := by
  simp [MissingOperand, CmdIn, request, zeroRequest]

/-- A request of no command, with an IN_LEN above the buffer: nothing is missing either. -/
theorem not_missing_oversize : ¬ MissingOperand { request 0x12 [] with inLen := some 4113 } := by
  simp [MissingOperand, CmdIn, ByteMissing, request, zeroRequest]

theorem inv_running (r : RequestFile) (hm : Memory.wf 4112 r.inBuf = true) (hr : requestReady r = true) : Inv (running r) :=
  ⟨rfl, fun r' h => by cases h; exact hm, ⟨r, rfl, hr⟩, rfl, le_refl 1⟩

theorem finishing_running (r : RequestFile) : Finishing (running r) := ⟨rfl, rfl, le_refl 1⟩

/-- A state after reset whose host has written `r` and next does `a`. -/
def hostState (r : RequestFile) (a : HostAction) : State := { State.reset with req := r, hostQueue := [a] }

theorem witness_DecodeOfEncodeIsIdentity : (Instr.illegalCmd 0xFF).wf = true ∧ (Instr.unknown 0x03).wf = true := by decide

theorem witness_EncodeOfDecodeIsIdentity : decode [0x40, 0x35] = .ok (.msg 5) ∧ decode [0x00] = .ok (.illegalCmd 0) := ⟨rfl, rfl⟩

theorem witness_ResetInAnyPhase : HostNext (hostState (request 0x05 []) .reset) .reset [] ∧
    HostNext { running (request 0x05 []) with hostQueue := [.reset] } .reset [] := ⟨rfl, rfl⟩

theorem witness_StartCapturesTheRequest : ∃ s, HostNext s .start [] ∧ (s.phase = .idle ∨ s.phase = .done) ∧ ¬ MissingOperand s.req :=
  ⟨hostState (request 0x05 []) .start, rfl, .inl rfl, not_missing_format⟩

theorem witness_StartCapturesTheRequest_done :
    ∃ s, HostNext s .start [] ∧ (s.phase = .idle ∨ s.phase = .done) ∧ ¬ MissingOperand s.req :=
  ⟨{ hostState { request 0x12 [] with inLen := some 4113 } .start with phase := .done }, rfl, .inr rfl, not_missing_oversize⟩

/-- The last byte below IN_LEN is missing; a scalar operand is missing. -/
theorem witness_StartOnMissingOperandFaults :
    (HostNext (hostState { request 0x12 [0, 0, 0] with inLen := some 4 } .start) .start [] ∧
      MissingOperand { request 0x12 [0, 0, 0] with inLen := some 4 }) ∧
    MissingOperand { request 0x02 [] with func := none } ∧ MissingOperand RequestFile.unwritten := by
  refine ⟨⟨rfl, ?_⟩, ?_, ?_⟩
  · refine .inr (.inr (.inr (.inr (.inr (.inr (.inr (.inr (.inr (.inl ⟨⟨0x12, by simp, rfl⟩, 3, 4, rfl, ?_⟩)))))))))
    decide
  · exact .inr (.inr (.inr (.inr (.inr (.inr (.inr (.inl ⟨⟨0x02, by simp, rfl⟩, .inr (.inr rfl)⟩)))))))
  · exact .inl rfl

theorem witness_StartWhileBusyIsIgnored :
    HostNext { running (request 0x05 []) with hostQueue := [.start] } .start [] ∧
    { running (request 0x05 []) with hostQueue := [.start] }.phase = .busy := ⟨rfl, rfl⟩

theorem witness_HostWriteStoresOneField : HostNext (hostState .unwritten (.write (.tag 0xFF))) (.write (.tag 0xFF)) [] ∧
    HostNext (hostState .unwritten (.write (.id16 0))) (.write (.id16 0)) [] := ⟨rfl, rfl⟩

/-- The last byte of IN_BUF, and the first and the last 13-bit offset outside it. -/
theorem witness_BufferWriteChangesOneByte :
    (HostNext (hostState .unwritten (.write (.inBuf 4111 7))) (.write (.inBuf 4111 7)) [] ∧ (4111 : BitVec 13).toNat ≤ 4111) ∧
    (HostNext (hostState .unwritten (.write (.inBuf 4112 7))) (.write (.inBuf 4112 7)) [] ∧ 4112 ≤ (4112 : BitVec 13).toNat) ∧
    (HostNext (hostState .unwritten (.write (.inBuf 8191 7))) (.write (.inBuf 8191 7)) [] ∧ 4112 ≤ (8191 : BitVec 13).toNat) :=
  ⟨⟨rfl, by decide⟩, ⟨rfl, by decide⟩, rfl, by decide⟩

/-- A response of one output byte: a valid and an invalid field, the byte below OUT_LEN, and the first one beyond it. -/
theorem witness_HostReadOfTheResponse :
    let resp : Response := { errorResponse .unsupportedType .fmtType with tag := some 0xFF, outLen := some 1, outBuf := [(0, 7)] }
    HostNext { hostState .unwritten (.read .tag) with resp := resp } (.read .tag) [] ∧
    resp.tag.map BitVec.toNat = some 0xFF ∧ resp.addr.map BitVec.toNat = none ∧
    (resp.status.bind fun x => statusTable.lookup x) = some 8 ∧ (resp.errField.bind fun x => errFieldTable.lookup x) = some 3 ∧
    (readByte resp.outBuf (0 : BitVec 13).toNat).map BitVec.toNat = some 7 ∧
    OutConsistent resp ∧ (∀ n, resp.outLen = some n → n.toNat ≤ (1 : BitVec 13).toNat) := by
  refine ⟨rfl, rfl, rfl, rfl, rfl, rfl, fun a => ?_, fun n h => by cases h; decide⟩
  cases a with
  | zero => exact ⟨fun _ => ⟨1, rfl, by decide⟩, fun _ => rfl⟩
  | succ a =>
    constructor
    · intro h; cases h
    · rintro ⟨n, h, hn⟩
      cases h
      exact absurd hn (by simp)

theorem witness_ReadWhileBusyFaults : ∃ s, Inv s ∧ s.phase = .busy ∧ HostNext s (.read .status) [] :=
  ⟨{ running (request 0x05 []) with hostQueue := [.read .status] },
    ⟨rfl, fun r h => by cases h; rfl, ⟨request 0x05 [], rfl, rfl⟩, rfl, le_refl 1⟩, rfl, rfl⟩

theorem witness_PhaseAndDoneRead : HostNext (hostState .unwritten .readPhase) .readPhase [] ∧
    HostNext (hostState .unwritten .readDone) .readDone [] := ⟨rfl, rfl⟩

theorem witness_IdleAndDoneStay : State.reset.phase = .idle ∧ State.reset.hostQueue = [] ∧
    { State.reset with phase := .done }.phase = .done := ⟨rfl, rfl, rfl⟩

/-- Both sides of the latency's end, with and without a `wait` of the host. -/
theorem witness_StepRunsTheDecodedInstruction :
    requestImage (request 0x40 [0x35, 0, 0, 0]) = .ok [0x40, 0x35] ∧ decode [0x40, 0x35] = .ok (.msg 5) ∧
    ((running (request 0x40 [0x35, 0, 0, 0])).captured = some (request 0x40 [0x35, 0, 0, 0]) ∧
      (running (request 0x40 [0x35, 0, 0, 0])).phase = .busy ∧ (running (request 0x40 [0x35, 0, 0, 0])).hostQueue = [] ∧
      (running (request 0x40 [0x35, 0, 0, 0])).remaining ≤ 1) ∧
    2 ≤ { running (request 0x40 [0x35, 0, 0, 0]) with remaining := 2 }.remaining ∧
    HostNext { running (request 0x40 [0x35, 0, 0, 0]) with hostQueue := [.wait] } .wait [] :=
  ⟨rfl, rfl, ⟨rfl, rfl, rfl, le_refl 1⟩, le_refl 2, rfl⟩

theorem witness_FinishSelectsTheCommand : Finishing (running (request 0x31 [])) ∧
    (running (request 0x31 [])).captured = some (request 0x31 []) ∧ (request 0x31 []).cmd = some 0x31 ∧ (0x31 : Byte) ≠ 0x40 ∧
    (request 0x06 []).cmd = some 0x06 := ⟨finishing_running _, rfl, rfl, by decide, rfl⟩

/-- A buffer with a byte 0 to dispatch on, and one a byte too short. -/
theorem witness_DecodeAnyDispatchIsTheMultiAttempt :
    (Finishing (running (request 0x40 [0x0a, 0, 0, 0])) ∧
      HoldsInput (running (request 0x40 [0x0a, 0, 0, 0])) (request 0x40 [0x0a, 0, 0, 0]) [0x0a, 0, 0, 0] ∧
      (request 0x40 [0x0a, 0, 0, 0]).cmd = some 0x40) ∧
    HoldsInput (running (request 0x40 [0x0a, 0, 0])) (request 0x40 [0x0a, 0, 0]) [0x0a, 0, 0] :=
  ⟨⟨finishing_running _, holdsInput_running rfl rfl rfl (by decide), rfl⟩, holdsInput_running rfl rfl rfl (by decide)⟩

/-- A host that uses every kind of action while the operation runs, and one that waits until the latency is over; the latency's
value is open, so the waits are as many as it says. -/
theorem witness_EveryOperationFinishes :
    let r := request 0x05 []
    let busyHost : List HostAction := [.write (.tag 1), .start, .readPhase, .readDone, .write (.inBuf 4111 7)]
    let waitingHost : List HostAction := .readPhase :: List.replicate (Config.extraLatency r) .wait
    let s (acts rest : List HostAction) : State := { State.reset with req := r, hostQueue := .start :: (acts ++ rest) }
    (∀ acts rest, (s acts rest).phase = .idle ∧ ¬ MissingOperand (s acts rest).req) ∧
    ((∀ a ∈ busyHost, LetsItRun a) ∧ waits busyHost < Config.latency r ∧
      ∃ k, 1 ≤ k ∧ waits busyHost + k = Config.latency r) ∧
    ((∀ a ∈ waitingHost, LetsItRun a) ∧ waits waitingHost + 1 = Config.latency r ∧
      (s waitingHost [.wait, .readDone]).hostQueue = .start :: (waitingHost ++ .wait :: [.readDone])) := by
  refine ⟨fun _ _ => ⟨rfl, not_missing_format⟩, ⟨?_, Nat.succ_pos _, _, Nat.succ_pos _, Nat.zero_add _⟩, ?_, ?_, rfl⟩
  · simp [LetsItRun]
  · intro a ha
    rcases List.mem_cons.1 ha with rfl | ha
    · trivial
    · cases List.eq_of_mem_replicate ha; trivial
  · simp [waits, Config.latency]

theorem witness_LatencyDoesNotMatter : (running (request 0x05 [])).hostQueue = [] ∧ (running (request 0x05 [])).phase = .busy ∧
    1 ≤ 1 ∧ 1 ≤ 2 := ⟨rfl, rfl, le_refl 1, by decide⟩

theorem witness_StepKeepsInvariant : ∃ s t, Inv s ∧ step s = .next t :=
  ⟨running (request 0x05 []), _, inv_running _ rfl rfl, rfl⟩

theorem witness_BlockStepNeverStops : Inv (running (request 0x05 [])) ∧ (running (request 0x05 [])).hostQueue = [] :=
  ⟨inv_running _ rfl rfl, rfl⟩

theorem witness_OperationFrame : ∃ t, exec .devidFormat (running (request 0x05 [])) = .next t := ⟨_, rfl⟩

theorem witness_ResponseDependsOnCapturedRequest :
    (running (request 0x05 [])).captured = { running (request 0x05 []) with phase := .done }.captured ∧
    (∃ t, exec .devidFormat (running (request 0x05 [])) = .next t) ∧
    ∃ t, HostNext (hostState (request 0x05 []) .start) .start [] ∧ (hostState (request 0x05 []) .start).phase ≠ .busy ∧
      step (hostState (request 0x05 []) .start) = .next t := ⟨rfl, ⟨_, rfl⟩, _, rfl, by decide, rfl⟩

/-- The two buffers differ in byte 4, the first one beyond IN_LEN. -/
theorem witness_BytesBeyondInLenDoNotMatter :
    (∃ t, exec .classify (running (request 0x01 [0x20, 0, 0, 2])) = .next t) ∧
    (∀ l k, (request 0x01 [0x20, 0, 0, 2]).inLen = some l → k < l.toNat →
      readByte (cellsFrom 0 [0x20, 0, 0, 2, 9]) k = readByte (request 0x01 [0x20, 0, 0, 2]).inBuf k) ∧
    ∃ t, HostNext (hostState .unwritten (.write (.tag 1))) (.write (.tag 1)) [] ∧
      step (hostState .unwritten (.write (.tag 1))) = .next t := by
  refine ⟨⟨_, rfl⟩, ?_, _, rfl, rfl⟩
  intro l k hl hk
  have hl' : l = 4 := (Option.some.inj hl).symm
  subst hl'
  have h : ∀ k, k < 4 → readByte (cellsFrom 0 [0x20, 0, 0, 2, 9]) k = readByte (cellsFrom 0 [0x20, 0, 0, 2]) k := by decide
  exact h k hk

/-- An error of DECODE_ANY and an error of another command. -/
theorem witness_ErrorLeavesOnlyErrorFields :
    (∃ t, exec .decodeAny (running (request 0x40 [])) = .next t ∧ t.resp.status ≠ some .ok) ∧ IsMultiAttempt .decodeAny ∧
    (∃ t, exec .classify (running (request 0x01 [])) = .next t ∧ t.resp.status ≠ some .ok) ∧ ¬ IsMultiAttempt .classify ∧
    ∃ l, (request 0x40 []).inLen = some l ∧ l.toNat ≤ 4112 :=
  ⟨⟨_, rfl, by decide⟩, .inl rfl, ⟨_, rfl, by decide⟩, by simp [IsMultiAttempt, rowKind], 0, rfl, by decide⟩

/-- A code of no command; the shortest IN_LEN that is too long; WIDTH_SEL = 3. -/
theorem witness_IllegalCommandCases :
    ((request 0x06 []).cmd = some 0x06 ∧
      (0x06 : Byte) ∉ [0x01, 0x02, 0x03, 0x04, 0x05, 0x10, 0x11, 0x12, 0x13, 0x20, 0x21, 0x30, 0x31, 0x40]) ∧
    (4112 < (4113 : BitVec 13).toNat ∧ ¬ MissingOperand { request 0x12 [] with inLen := some 4113 }) ∧
    (¬ MissingOperand { request 0x10 [] with widthSel := some 3 } ∧
      { request 0x10 [] with widthSel := some 3 }.widthSel = some 3 ∧
      Finishing (running { request 0x10 [] with widthSel := some 3 })) :=
  ⟨⟨rfl, by decide⟩, ⟨by decide, not_missing_oversize⟩,
    by simp [MissingOperand, CmdIn, request, zeroRequest], rfl, finishing_running _⟩

/-- Lengths 3 and 4, on either side of the minimum. -/
theorem witness_ClassifyResult :
    HoldsLength (running { request 0x01 [] with inLen := some 3 }) { request 0x01 [] with inLen := some 3 } (3 : BitVec 13).toNat ∧
    HoldsLength (running (request 0x01 [0xff, 0, 0, 0])) (request 0x01 [0xff, 0, 0, 0]) (4 : BitVec 13).toNat ∧
    readByte (request 0x01 [0xff, 0, 0, 0]).inBuf 0 = some 0xff :=
  ⟨holdsLength_running rfl rfl (by decide), holdsLength_running rfl rfl (by decide), rfl⟩

theorem witness_PackAndUnpackAreInverse : 255 ≤ 255 ∧ 31 ≤ 31 ∧ 7 ≤ 7 := by decide

/-- A DEVID_PACK request. -/
def packRequest (b d f : BitVec 16) : RequestFile := { request 0x02 [] with bus := some b, dev := some d, func := some f }

/-- Each component just out of range, and all at their largest value in range. -/
theorem witness_DevidPackResult :
    (HoldsLength (running (packRequest 256 31 7)) (packRequest 256 31 7) (0 : BitVec 13).toNat ∧
      (packRequest 256 31 7).bus = some 256 ∧ (packRequest 256 31 7).dev = some 31 ∧ (packRequest 256 31 7).func = some 7 ∧
      255 < (256 : BitVec 16).toNat) ∧
    (HoldsLength (running (packRequest 255 32 7)) (packRequest 255 32 7) (0 : BitVec 13).toNat ∧ 31 < (32 : BitVec 16).toNat) ∧
    (HoldsLength (running (packRequest 255 31 8)) (packRequest 255 31 8) (0 : BitVec 13).toNat ∧ 7 < (8 : BitVec 16).toNat) ∧
    (HoldsLength (running (packRequest 255 31 7)) (packRequest 255 31 7) (0 : BitVec 13).toNat ∧ (255 : BitVec 16).toNat ≤ 255 ∧
      (31 : BitVec 16).toNat ≤ 31 ∧ (7 : BitVec 16).toNat ≤ 7) :=
  ⟨⟨holdsLength_running rfl rfl (by decide), rfl, rfl, rfl, by decide⟩, ⟨holdsLength_running rfl rfl (by decide), by decide⟩,
    ⟨holdsLength_running rfl rfl (by decide), by decide⟩, holdsLength_running rfl rfl (by decide), by decide, by decide, by decide⟩

theorem witness_DevidUnpackResult : HoldsLength (running { request 0x03 [] with id16 := some 0xFFFF })
    { request 0x03 [] with id16 := some 0xFFFF } (0 : BitVec 13).toNat ∧
    { request 0x03 [] with id16 := some 0xFFFF }.id16 = some 0xFFFF := ⟨holdsLength_running rfl rfl (by decide), rfl⟩

/-- `b:d.f` with one digit each. -/
theorem textForm_short {cb cd cf : Byte} {b d f : Nat} (hb : HexDigit cb b) (hd : HexDigit cd d) (hf : HexDigit cf f) :
    TextForm [cb, 0x3A, cd, 0x2E, cf] b d f :=
  ⟨[cb], [cd], cf, .inl ⟨cb, hb, rfl⟩, .inl ⟨cd, hd, rfl⟩, hf, rfl⟩

/-- `b:dd.f` with a device of two digits. -/
theorem textForm_long {cb cd cd' cf : Byte} {b d d' f : Nat} (hb : HexDigit cb b) (hd : HexDigit cd d) (hd' : HexDigit cd' d')
    (hf : HexDigit cf f) : TextForm [cb, 0x3A, cd, cd', 0x2E, cf] b (d * 16 + d') f :=
  ⟨[cb], [cd, cd'], cf, .inl ⟨cb, hb, rfl⟩, .inr ⟨cd, cd', d, d', hd, hd', rfl, rfl⟩, hf, rfl⟩

theorem hexDigit_0 : HexDigit 0x30 0 := .inl ⟨by decide, by decide⟩
theorem hexDigit_1 : HexDigit 0x31 1 := .inl ⟨by decide, by decide⟩
theorem hexDigit_2 : HexDigit 0x32 2 := .inl ⟨by decide, by decide⟩
theorem hexDigit_7 : HexDigit 0x37 7 := .inl ⟨by decide, by decide⟩
theorem hexDigit_8 : HexDigit 0x38 8 := .inl ⟨by decide, by decide⟩
theorem hexDigit_f : HexDigit 0x66 15 := .inr ⟨by decide, by decide, .inl (by decide)⟩

theorem no_form_of_empty (b d f : Nat) : ¬ TextForm [] b d f := by
  rintro ⟨x, y, c, -, -, -, h⟩
  simp at h

/-- The empty text, device 0x20, function 8, and device 0x1f with function 7. -/
theorem witness_DevidParseResult :
    (HoldsInput (running (request 0x04 [])) (request 0x04 []) [] ∧ ∀ b d f, ¬ TextForm [] b d f) ∧
    (HoldsInput (running (request 0x04 [0x30, 0x3a, 0x32, 0x30, 0x2e, 0x30])) (request 0x04 [0x30, 0x3a, 0x32, 0x30, 0x2e, 0x30])
      [0x30, 0x3a, 0x32, 0x30, 0x2e, 0x30] ∧ TextForm [0x30, 0x3a, 0x32, 0x30, 0x2e, 0x30] 0 (2 * 16 + 0) 0) ∧
    (HoldsInput (running (request 0x04 [0x30, 0x3a, 0x30, 0x2e, 0x38])) (request 0x04 [0x30, 0x3a, 0x30, 0x2e, 0x38])
      [0x30, 0x3a, 0x30, 0x2e, 0x38] ∧ TextForm [0x30, 0x3a, 0x30, 0x2e, 0x38] 0 0 8) ∧
    (HoldsInput (running (request 0x04 [0x66, 0x3a, 0x31, 0x66, 0x2e, 0x37])) (request 0x04 [0x66, 0x3a, 0x31, 0x66, 0x2e, 0x37])
      [0x66, 0x3a, 0x31, 0x66, 0x2e, 0x37] ∧ TextForm [0x66, 0x3a, 0x31, 0x66, 0x2e, 0x37] 15 (1 * 16 + 15) 7) :=
  ⟨⟨holdsInput_running rfl rfl rfl (by decide), no_form_of_empty⟩,
    ⟨holdsInput_running rfl rfl rfl (by decide), textForm_long hexDigit_0 hexDigit_2 hexDigit_0 hexDigit_0⟩,
    ⟨holdsInput_running rfl rfl rfl (by decide), textForm_short hexDigit_0 hexDigit_0 hexDigit_8⟩,
    holdsInput_running rfl rfl rfl (by decide), textForm_long hexDigit_f hexDigit_1 hexDigit_f hexDigit_7⟩

theorem witness_DevidFormatResult : HoldsLength (running (request 0x05 [])) (request 0x05 []) (0 : BitVec 13).toNat ∧
    (request 0x05 []).id16 = some 0 := ⟨holdsLength_running rfl rfl (by decide), rfl⟩

/-- The canonical text of 0 and a text of 0 that is not canonical. -/
theorem witness_DeviceIdLaws :
    (∃ t, exec .devidFormat (running (request 0x05 [])) = .next t ∧
      OutputIs t.resp [0x30, 0x30, 0x3a, 0x30, 0x30, 0x2e, 0x30] ∧
      HoldsInput (running (request 0x04 [0x30, 0x30, 0x3a, 0x30, 0x30, 0x2e, 0x30]))
        (request 0x04 [0x30, 0x30, 0x3a, 0x30, 0x30, 0x2e, 0x30]) [0x30, 0x30, 0x3a, 0x30, 0x30, 0x2e, 0x30]) ∧
    (∃ t, HoldsInput (running (request 0x04 [0x30, 0x3a, 0x30, 0x2e, 0x30])) (request 0x04 [0x30, 0x3a, 0x30, 0x2e, 0x30])
        [0x30, 0x3a, 0x30, 0x2e, 0x30] ∧
      Succeeds (exec .devidParse (running (request 0x04 [0x30, 0x3a, 0x30, 0x2e, 0x30]))) t ∧
      HoldsLength (running (request 0x05 [])) (request 0x05 []) (0 : BitVec 13).toNat ∧
      (request 0x05 []).id16 = t.resp.id16) :=
  ⟨⟨_, rfl, outputIs_of rfl rfl (by decide), holdsInput_running rfl rfl rfl (by decide)⟩,
    _, holdsInput_running rfl rfl rfl (by decide), ⟨rfl, rfl⟩, holdsLength_running rfl rfl (by decide), rfl⟩

theorem witness_ByteCountsAndEnablesAreInverse : (1 ≤ 4096 ∧ 4096 ≤ 4096) ∧ beToCount 1 0b0001 0 = .ok 1 ∧
    beToCount 1024 0b1111 0b1111 = .ok 4096 := ⟨by decide, rfl, rfl⟩

theorem legalTransfer_of {n : Nat} {a : BitVec 64} (h : 1 ≤ n ∧ n ≤ 4096 ∧ a.toNat % 4 = 0) : LegalTransfer n a := h

/-- An MRD_ENCODE request. -/
def readRequest (a : BitVec 64) (w : BitVec 2) (c : BitVec 13) : RequestFile :=
  { request 0x10 [] with addr := some a, widthSel := some w, byteCount := some c }

/-- All that MrdEncodeResult asks of a request with these operands. -/
theorem holds_readRequest (a : BitVec 64) (w : BitVec 2) (c : BitVec 13) :
    HoldsLength (running (readRequest a w c)) (readRequest a w c) (0 : BitVec 13).toNat ∧
    (readRequest a w c).reqId = some 0 ∧ (readRequest a w c).tag = some 0 ∧ (readRequest a w c).addr = some a ∧
    (readRequest a w c).widthSel = some w ∧ (readRequest a w c).byteCount = some c :=
  ⟨holdsLength_running rfl rfl (by decide), rfl, rfl, rfl, rfl, rfl⟩

/-- WIDTH_SEL 3; counts 0 and 4097; a misaligned address; the ends of the legal transfers and of the widths. -/
theorem witness_MrdEncodeResult :
    (HoldsLength (running (readRequest 0xFFFFFFFC 1 4096)) (readRequest 0xFFFFFFFC 1 4096) (0 : BitVec 13).toNat ∧
      (readRequest 0xFFFFFFFC 1 4096).byteCount = some 4096) ∧
    ((0 : BitVec 13).toNat = 0 ∧ 4096 < (4097 : BitVec 13).toNat) ∧
    ¬ ((1 : BitVec 64).toNat % 4 = 0 ∧ WidthFits 0 1) ∧ ¬ ((0x100000000 : BitVec 64).toNat % 4 = 0 ∧ WidthFits 1 0x100000000) ∧
    (LegalTransfer (4096 : BitVec 13).toNat 0xFFFFFFFC ∧ WidthFits 1 0xFFFFFFFC) ∧
    (LegalTransfer (1 : BitVec 13).toNat 0x100000000 ∧ WidthFits 2 0x100000000) := by
  refine ⟨⟨(holds_readRequest _ _ _).1, rfl⟩, by decide, fun h => absurd h.1 (by decide), ?_, ?_, ?_⟩
  · rintro ⟨-, h, -⟩
    exact absurd (h rfl) (by decide)
  · exact ⟨legalTransfer_of (by decide), fun _ => by decide, fun h => absurd h (by decide)⟩
  · exact ⟨legalTransfer_of (by decide), fun h => absurd h (by decide), fun _ => by decide⟩

/-- An MWR_ENCODE request. -/
def writeRequestOf (payload : List Byte) (a : BitVec 64) (w : BitVec 2) : RequestFile :=
  { request 0x11 payload with addr := some a, widthSel := some w }

theorem holds_writeRequest (payload : List Byte) (a : BitVec 64) (w : BitVec 2) (h : payload.length ≤ 4112) :
    HoldsInput (running (writeRequestOf payload a w)) (writeRequestOf payload a w) payload :=
  holdsInput_running rfl rfl rfl h

/-- The empty payload, 4097 bytes, a misaligned address, and the longest payload at the smallest 64-bit address. -/
theorem witness_MwrEncodeResult :
    HoldsInput (running (writeRequestOf [] 0 3)) (writeRequestOf [] 0 3) [] ∧ ([] : List Byte).length = 0 ∧
    (HoldsInput (running (writeRequestOf (List.replicate 4097 0) 0 0)) (writeRequestOf (List.replicate 4097 0) 0 0)
      (List.replicate 4097 0) ∧ 4096 < (List.replicate 4097 (0 : Byte)).length) ∧
    ¬ ((1 : BitVec 64).toNat % 4 = 0 ∧ WidthFits 0 1) ∧
    (HoldsInput (running (writeRequestOf (List.replicate 4096 0) 0x100000000 2))
      (writeRequestOf (List.replicate 4096 0) 0x100000000 2) (List.replicate 4096 0) ∧
      LegalTransfer (List.replicate 4096 (0 : Byte)).length 0x100000000 ∧ WidthFits 2 0x100000000) := by
  have h7 : (List.replicate 4097 (0 : Byte)).length = 4097 := List.length_replicate
  have h6 : (List.replicate 4096 (0 : Byte)).length = 4096 := List.length_replicate
  exact ⟨holds_writeRequest _ _ _ (by decide), rfl, ⟨holds_writeRequest _ _ _ (by omega), by omega⟩,
    fun h => absurd h.1 (by decide), holds_writeRequest _ _ _ (by omega), ⟨by omega, by omega, by decide⟩,
    fun h => absurd h (by decide), fun _ => by decide⟩

theorem holdsInput_request (c : Byte) (bytes : List Byte) (h : bytes.length ≤ 4112) :
    HoldsInput (running (request c bytes)) (request c bytes) bytes :=
  holdsInput_running rfl rfl rfl h

/-- The longest read below 4 GB and the shortest above it. -/
theorem witness_MrdDecodeDeliversReadRequests :
    (LegalTransfer 4096 0xFFFFFFFC ∧ HoldsInput (running (request 0x12 (readTlp 4096 0 0 0xFFFFFFFC)))
      (request 0x12 (readTlp 4096 0 0 0xFFFFFFFC)) (readTlp 4096 0 0 0xFFFFFFFC)) ∧
    (LegalTransfer 1 0x100000000 ∧ HoldsInput (running (request 0x12 (readTlp 1 0 0 0x100000000)))
      (request 0x12 (readTlp 1 0 0 0x100000000)) (readTlp 1 0 0 0x100000000)) :=
  ⟨⟨legalTransfer_of (by decide), holdsInput_request _ _ (by decide)⟩, legalTransfer_of (by decide),
    holdsInput_request _ _ (by decide)⟩

theorem witness_MwrDecodeDeliversWriteRequests :
    (LegalTransfer [0xde, 0xad, (0xbe : Byte)].length 0x2000 ∧
      HoldsInput (running (request 0x13 (writeTlp [0xde, 0xad, 0xbe] 0 0 0x2000))) (request 0x13 (writeTlp [0xde, 0xad, 0xbe] 0 0 0x2000))
        (writeTlp [0xde, 0xad, 0xbe] 0 0 0x2000)) ∧
    (LegalTransfer [(0x01 : Byte)].length 0x100000000 ∧
      HoldsInput (running (request 0x13 (writeTlp [0x01] 0 0 0x100000000))) (request 0x13 (writeTlp [0x01] 0 0 0x100000000))
        (writeTlp [0x01] 0 0 0x100000000)) :=
  ⟨⟨legalTransfer_of (by decide), holdsInput_request _ _ (by decide)⟩, legalTransfer_of (by decide),
    holdsInput_request _ _ (by decide)⟩

theorem witness_MrdDecodeAcceptsOnlyReadRequests : ∃ t, HoldsInput (running (request 0x12 (readTlp 1 0 0 0)))
    (request 0x12 (readTlp 1 0 0 0)) (readTlp 1 0 0 0) ∧ Succeeds (exec .mrdDecode (running (request 0x12 (readTlp 1 0 0 0)))) t :=
  ⟨_, holdsInput_request _ _ (by decide), rfl, rfl⟩

theorem witness_MwrDecodeAcceptsOnlyWriteRequests : ∃ t, HoldsInput (running (request 0x13 (writeTlp [7] 0 0 0)))
    (request 0x13 (writeTlp [7] 0 0 0)) (writeTlp [7] 0 0 0) ∧
    Succeeds (exec .mwrDecode (running (request 0x13 (writeTlp [7] 0 0 0)))) t :=
  ⟨_, holdsInput_request _ _ (by decide), rfl, rfl⟩

/-- Both directions, a read and a write. -/
theorem witness_MemoryRoundTrip :
    (∃ t, Succeeds (exec .mrdEncode (running (readRequest 0 0 1))) t ∧ OutputIs t.resp (readTlp 1 0 0 0) ∧
      (readRequest 0 0 1).widthSel = some 0) ∧
    (∃ t, Succeeds (exec .mwrEncode (running (writeRequestOf [7] 0 0))) t ∧ OutputIs t.resp (writeTlp [7] 0 0 0)) ∧
    (∃ t, Succeeds (exec .mrdDecode (running (request 0x12 (readTlp 1 0 0 0)))) t ∧ (readRequest 0 0 1).reqId = t.resp.reqId ∧
      (readRequest 0 0 1).tag = t.resp.tag ∧ (readRequest 0 0 1).addr = t.resp.addr ∧
      (readRequest 0 0 1).byteCount = t.resp.byteCount) ∧
    (∃ t, Succeeds (exec .mwrDecode (running (request 0x13 (writeTlp [7] 0 0 0)))) t ∧ OutputIs t.resp [7] ∧
      (writeRequestOf [7] 0 0).reqId = t.resp.reqId ∧ (writeRequestOf [7] 0 0).tag = t.resp.tag ∧
      (writeRequestOf [7] 0 0).addr = t.resp.addr) :=
  ⟨⟨_, ⟨rfl, rfl⟩, outputIs_of rfl rfl (by decide), rfl⟩, ⟨_, ⟨rfl, rfl⟩, outputIs_of rfl rfl (by decide)⟩,
    ⟨_, ⟨rfl, rfl⟩, rfl, rfl, rfl, rfl⟩, _, ⟨rfl, rfl⟩, outputIs_of rfl rfl (by decide), rfl, rfl, rfl⟩

/-- A CPL_ENCODE request. -/
def cplRequest (payload : List Byte) (st : BitVec 3) (c : BitVec 13) (la : BitVec 7) (d : Bool) : RequestFile :=
  { request 0x20 payload with
    cplStatus := some st
    byteCount := some c
    lowerAddr := some la
    hasData := some d }

/-- All that CplEncodeResult asks of a request with these operands. -/
theorem holds_cplRequest (payload : List Byte) (st : BitVec 3) (c : BitVec 13) (la : BitVec 7) (d : Bool)
    (h : payload.length ≤ 4112) : HoldsInput (running (cplRequest payload st c la d)) (cplRequest payload st c la d) payload ∧
    (cplRequest payload st c la d).cplId = some 0 ∧ (cplRequest payload st c la d).reqId = some 0 ∧
    (cplRequest payload st c la d).cplStatus = some st ∧ (cplRequest payload st c la d).byteCount = some c ∧
    (cplRequest payload st c la d).tag = some 0 ∧ (cplRequest payload st c la d).lowerAddr = some la ∧
    (cplRequest payload st c la d).hasData = some d :=
  ⟨holdsInput_running rfl rfl rfl h, rfl, rfl, rfl, rfl, rfl, rfl, rfl⟩

/-- A reserved status; counts 0 and 4097; payloads of 0, 3 and 8 bytes; a Cpl with and without payload. -/
theorem witness_CplEncodeResult :
    HoldsInput (running (cplRequest [] 3 1 0 false)) (cplRequest [] 3 1 0 false) [] ∧ ¬ LegalStatus 3 ∧ LegalStatus 4 ∧
    ((0 : BitVec 13).toNat = 0 ∧ 4096 < (4097 : BitVec 13).toNat) ∧ [(1 : Byte), 2, 3].length % 4 ≠ 0 ∧
    (0 : BitVec 7).toNat % 4 = 0 ∧ ((0 : BitVec 7).toNat % 4 + (4 : BitVec 13).toNat + 3) / 4 < [(1 : Byte), 2, 3, 4, 5, 6, 7, 8].length / 4 ∧
    LegalCplData (5 : BitVec 13).toNat 0 [1, 2, 3, 4, 5, 6, 7, 8] ∧
    HoldsInput (running (cplRequest [1, 2, 3, 4, 5, 6, 7, 8] 4 5 0 true)) (cplRequest [1, 2, 3, 4, 5, 6, 7, 8] 4 5 0 true)
      [1, 2, 3, 4, 5, 6, 7, 8] ∧
    [(1 : Byte)] ≠ [] := by
  refine ⟨(holds_cplRequest _ _ _ _ _ (by decide)).1, ?_, ?_, by decide, by decide, by decide, by decide, ?_,
    (holds_cplRequest _ _ _ _ _ (by decide)).1, by decide⟩
  · unfold LegalStatus; decide
  · unfold LegalStatus; decide
  · unfold LegalCplData; decide

theorem witness_CplDecodeDeliversCompletions :
    LegalStatus 0 ∧ (1 ≤ 4096 ∧ 4096 ≤ 4096) ∧
    HoldsInput (running (request 0x21 (cplTlp 0 0 4096 0 0 0))) (request 0x21 (cplTlp 0 0 4096 0 0 0)) (cplTlp 0 0 4096 0 0 0) ∧
    LegalCplData 4096 0 [1, 2, 3, 4] ∧
    HoldsInput (running (request 0x21 (cplDTlp 0 0 4096 0 0 0 [1, 2, 3, 4]))) (request 0x21 (cplDTlp 0 0 4096 0 0 0 [1, 2, 3, 4]))
      (cplDTlp 0 0 4096 0 0 0 [1, 2, 3, 4]) :=
  ⟨.inl rfl, by decide, holdsInput_request _ _ (by decide), by unfold LegalCplData; decide, holdsInput_request _ _ (by decide)⟩

theorem witness_CplDecodeAcceptsOnlyCompletions : ∃ t, HoldsInput (running (request 0x21 (cplTlp 0 0 1 0 0 0)))
    (request 0x21 (cplTlp 0 0 1 0 0 0)) (cplTlp 0 0 1 0 0 0) ∧
    Succeeds (exec .cplDecode (running (request 0x21 (cplTlp 0 0 1 0 0 0)))) t :=
  ⟨_, holdsInput_request _ _ (by decide), rfl, rfl⟩

/-- A reserved and a legal status, encoded and decoded. -/
theorem witness_ReservedCompletionStatusIsRejected :
    (fieldsWritten (cplRequest [] 3 1 0 false) (fieldsRead .cplEncode) = true ∧ (3 : BitVec 3) ∉ [0b000, 0b001, 0b010, 0b100] ∧
      (4 : BitVec 3) ∈ [0b000#3, 0b001, 0b010, 0b100] ∧ (cplRequest [] 3 1 0 false).inLen = some 0) ∧
    (HoldsInput (running (request 0x21 (cplTlp 0 7 1 0 0 0))) (request 0x21 (cplTlp 0 7 1 0 0 0)) (cplTlp 0 7 1 0 0 0) ∧
      12 ≤ (cplTlp 0 7 1 0 0 0).length ∧ byteOf (cplTlp 0 7 1 0 0 0) 0 = 0x0A ∧ byteOf (cplTlp 0 7 1 0 0 0) 1 = 0 ∧
      byteOf (cplTlp 0 7 1 0 0 0) 2 &&& 0xFC = 0 ∧ byteOf (cplTlp 0 7 1 0 0 0) 6 &&& 0x10 = 0 ∧
      byteOf (cplTlp 0 7 1 0 0 0) 11 &&& 0x80 = 0 ∧
      (byteOf (cplTlp 0 7 1 0 0 0) 6).extractLsb' 5 3 ∉ [0b000#3, 0b001#3, 0b010#3, 0b100#3]) ∧
    (byteOf (cplTlp 0 4 1 0 0 0) 6).extractLsb' 5 3 ∈ [0b000#3, 0b001#3, 0b010#3, 0b100#3] :=
  ⟨⟨rfl, by decide, by decide, rfl⟩, ⟨holdsInput_request _ _ (by decide), by decide, by decide, by decide, by decide, by decide,
    by decide, by decide⟩, by decide⟩

/-- A CplD, both directions. -/
theorem witness_CompletionRoundTrip :
    (∃ t, Succeeds (exec .cplEncode (running (cplRequest [1, 2, 3, 4] 0 4 0 true))) t ∧
      OutputIs t.resp (cplDTlp 0 0 4 0 0 0 [1, 2, 3, 4]) ∧ (cplRequest [1, 2, 3, 4] 0 4 0 true).hasData = some true) ∧
    (∃ t, Succeeds (exec .cplDecode (running (request 0x21 (cplDTlp 0 0 4 0 0 0 [1, 2, 3, 4])))) t ∧ OutputIs t.resp [1, 2, 3, 4] ∧
      (cplRequest [1, 2, 3, 4] 0 4 0 true).cplId = t.resp.cplId ∧ (cplRequest [1, 2, 3, 4] 0 4 0 true).cplStatus = t.resp.cplStatus ∧
      (cplRequest [1, 2, 3, 4] 0 4 0 true).byteCount = t.resp.byteCount ∧ (cplRequest [1, 2, 3, 4] 0 4 0 true).reqId = t.resp.reqId ∧
      (cplRequest [1, 2, 3, 4] 0 4 0 true).tag = t.resp.tag ∧ (cplRequest [1, 2, 3, 4] 0 4 0 true).lowerAddr = t.resp.lowerAddr ∧
      (cplRequest [1, 2, 3, 4] 0 4 0 true).hasData = t.resp.hasData) :=
  ⟨⟨_, ⟨rfl, rfl⟩, outputIs_of rfl rfl (by decide), rfl⟩, _, ⟨rfl, rfl⟩, outputIs_of rfl rfl (by decide), rfl, rfl, rfl, rfl, rfl,
    rfl, rfl⟩

/-- A CFG_ENCODE request. -/
def cfgRequest (payload : List Byte) (type1 write : Bool) (reg : BitVec 16) : RequestFile :=
  { request 0x30 payload with
    cfgType := some type1
    cfgWrite := some write
    regIndex := some reg }

/-- All that CfgEncodeResult asks of a request with these operands. -/
theorem holds_cfgRequest (payload : List Byte) (type1 write : Bool) (reg : BitVec 16) (h : payload.length ≤ 4112) :
    HoldsInput (running (cfgRequest payload type1 write reg)) (cfgRequest payload type1 write reg) payload ∧
    (cfgRequest payload type1 write reg).cfgType = some type1 ∧ (cfgRequest payload type1 write reg).cfgWrite = some write ∧
    (cfgRequest payload type1 write reg).reqId = some 0 ∧ (cfgRequest payload type1 write reg).tag = some 0 ∧
    (cfgRequest payload type1 write reg).tgtId = some 0 ∧ (cfgRequest payload type1 write reg).regIndex = some reg ∧
    (cfgRequest payload type1 write reg).firstBe = some 0 :=
  ⟨holdsInput_running rfl rfl rfl h, rfl, rfl, rfl, rfl, rfl, rfl, rfl⟩

/-- Index 1024, a write of 3 bytes, a read with a payload, and a write and a read at index 1023. -/
theorem witness_CfgEncodeResult :
    (HoldsInput (running (cfgRequest [] false false 1024)) (cfgRequest [] false false 1024) [] ∧ 1023 < (1024 : BitVec 16).toNat) ∧
    (HoldsInput (running (cfgRequest [1, 2, 3] false true 1023)) (cfgRequest [1, 2, 3] false true 1023) [1, 2, 3] ∧
      (1023 : BitVec 16).toNat ≤ 1023 ∧ [(1 : Byte), 2, 3].length ≠ 4) ∧
    (HoldsInput (running (cfgRequest [1] false false 1023)) (cfgRequest [1] false false 1023) [1] ∧ [(1 : Byte)].length ≠ 0) ∧
    LegalCfgPayload true [1, 2, 3, 4] ∧ LegalCfgPayload false [] :=
  ⟨⟨(holds_cfgRequest _ _ _ _ (by decide)).1, by decide⟩, ⟨(holds_cfgRequest _ _ _ _ (by decide)).1, by decide, by decide⟩,
    ⟨(holds_cfgRequest _ _ _ _ (by decide)).1, by decide⟩, rfl, rfl⟩

theorem witness_CfgDecodeDeliversConfigRequests :
    (LegalCfgPayload true [1, 2, 3, 4] ∧ HoldsInput (running (request 0x31 (cfgTlp true true 0 0 0 1023 0 [1, 2, 3, 4])))
      (request 0x31 (cfgTlp true true 0 0 0 1023 0 [1, 2, 3, 4])) (cfgTlp true true 0 0 0 1023 0 [1, 2, 3, 4])) ∧
    (LegalCfgPayload false [] ∧ HoldsInput (running (request 0x31 (cfgTlp false false 0 0 0 0 0 [])))
      (request 0x31 (cfgTlp false false 0 0 0 0 0 [])) (cfgTlp false false 0 0 0 0 0 [])) :=
  ⟨⟨rfl, holdsInput_request _ _ (by decide)⟩, rfl, holdsInput_request _ _ (by decide)⟩

theorem witness_CfgDecodeAcceptsOnlyConfigRequests : ∃ t, HoldsInput (running (request 0x31 (cfgTlp false false 0 0 0 0 0 [])))
    (request 0x31 (cfgTlp false false 0 0 0 0 0 [])) (cfgTlp false false 0 0 0 0 0 []) ∧
    Succeeds (exec .cfgDecode (running (request 0x31 (cfgTlp false false 0 0 0 0 0 [])))) t :=
  ⟨_, holdsInput_request _ _ (by decide), rfl, rfl⟩

/-- A write at the largest index, both directions. -/
theorem witness_ConfigurationRoundTrip :
    (∃ t, Succeeds (exec .cfgEncode (running (cfgRequest [1, 2, 3, 4] true true 1023))) t ∧
      OutputIs t.resp (cfgTlp true true 0 0 0 1023 0 [1, 2, 3, 4])) ∧
    (∃ t, Succeeds (exec .cfgDecode (running (request 0x31 (cfgTlp true true 0 0 0 1023 0 [1, 2, 3, 4])))) t ∧
      OutputIs t.resp [1, 2, 3, 4] ∧ (cfgRequest [1, 2, 3, 4] true true 1023).cfgType = t.resp.cfgType ∧
      (cfgRequest [1, 2, 3, 4] true true 1023).cfgWrite = t.resp.cfgWrite ∧
      (cfgRequest [1, 2, 3, 4] true true 1023).reqId = t.resp.reqId ∧ (cfgRequest [1, 2, 3, 4] true true 1023).tag = t.resp.tag ∧
      (cfgRequest [1, 2, 3, 4] true true 1023).tgtId = t.resp.tgtId ∧
      (cfgRequest [1, 2, 3, 4] true true 1023).regIndex.map BitVec.toNat = t.resp.regIndex.map BitVec.toNat ∧
      (cfgRequest [1, 2, 3, 4] true true 1023).firstBe = t.resp.firstBe) :=
  ⟨⟨_, ⟨rfl, rfl⟩, outputIs_of rfl rfl (by decide)⟩, _, ⟨rfl, rfl⟩, outputIs_of rfl rfl (by decide), rfl, rfl, rfl, rfl, rfl, rfl, rfl⟩

/-- Buffers of 3, 4 and 12 bytes: a check that fails at the start, at the header, and none. -/
theorem witness_DecodersReportTheFirstFailedCheck :
    HoldsInput (running (request 0x12 [0, 0, 0])) (request 0x12 [0, 0, 0]) [0, 0, 0] ∧
    firstFailed (readChecks [0, 0, 0]) = some (.malformedHeader, .buffer) ∧
    firstFailed (readChecks [0x40, 0, 0, 1]) = some (.unsupportedType, .fmtType) ∧ firstFailed (readChecks (readTlp 1 0 0 0)) = none :=
  ⟨holdsInput_request _ _ (by decide), by decide, by decide, by decide⟩

theorem witness_DecodersAcceptTheirKindsOnly :
    HoldsInput (running (request 0x12 [0, 0, 0, 0])) (request 0x12 [0, 0, 0, 0]) [0, 0, 0, 0] ∧ 4 ≤ [(0 : Byte), 0, 0, 0].length ∧
    kindOf (byteOf [0, 0, 0, 0] 0) ∈ [Kind.mrd32, .mrd64] ∧ kindOf (byteOf [0x01, 0, 0, 0] 0) ∉ [Kind.mrd32, .mrd64] :=
  ⟨holdsInput_request _ _ (by decide), by decide, by decide, by decide⟩

/-- One byte less and one byte more. -/
theorem witness_ChangedInputLengthFails : ∃ t,
    HoldsInput (running (request 0x12 (readTlp 1 0 0 0))) (request 0x12 (readTlp 1 0 0 0)) (readTlp 1 0 0 0) ∧
    Succeeds (exec .mrdDecode (running (request 0x12 (readTlp 1 0 0 0)))) t ∧
    (HoldsInput (running (request 0x12 ((readTlp 1 0 0 0).take 11))) (request 0x12 ((readTlp 1 0 0 0).take 11))
      ((readTlp 1 0 0 0).take 11) ∧ ((readTlp 1 0 0 0).take 11).length ≠ (readTlp 1 0 0 0).length ∧
      (readTlp 1 0 0 0).take 11 <+: readTlp 1 0 0 0) ∧
    (HoldsInput (running (request 0x12 (readTlp 1 0 0 0 ++ [0]))) (request 0x12 (readTlp 1 0 0 0 ++ [0])) (readTlp 1 0 0 0 ++ [0]) ∧
      (readTlp 1 0 0 0 ++ [0]).length ≠ (readTlp 1 0 0 0).length ∧ readTlp 1 0 0 0 <+: readTlp 1 0 0 0 ++ [0]) :=
  ⟨_, holdsInput_request _ _ (by decide), ⟨rfl, rfl⟩, ⟨holdsInput_request _ _ (by decide), by decide, List.take_prefix _ _⟩,
    holdsInput_request _ _ (by decide), by decide, List.prefix_append _ _⟩

theorem witness_DecodeAnyReportsEveryCandidate : HoldsInput (running (request 0x40 [])) (request 0x40 []) [] :=
  holdsInput_request _ _ (by decide)

theorem witness_AtMostOneCandidateSucceeds :
    (HoldsInput (running (request 0x40 [0, 0, 0, 0])) (request 0x40 [0, 0, 0, 0]) [0, 0, 0, 0] ∧ 4 ≤ [(0 : Byte), 0, 0, 0].length) ∧
    HoldsInput (running (request 0x40 [0, 0, 0])) (request 0x40 [0, 0, 0]) [0, 0, 0] ∧ [(0 : Byte), 0, 0].length ≤ 3 :=
  ⟨⟨holdsInput_request _ _ (by decide), by decide⟩, holdsInput_request _ _ (by decide), by decide⟩

/-- A TLP of each variant, with DECODE_ANY and with its row. -/
theorem witness_DecodeAnyDeliversTheWinner :
    (LegalTransfer 1 0 ∧ HoldsInput (running (request 0x40 (readTlp 1 0 0 0))) (request 0x40 (readTlp 1 0 0 0)) (readTlp 1 0 0 0) ∧
      Instr.mrd32 ∈ [.decodeAny, if needs64 0 then .mrd64 else .mrd32]) ∧
    (LegalTransfer [(7 : Byte)].length 0x100000000 ∧ HoldsInput (running (request 0x40 (writeTlp [7] 0 0 0x100000000)))
      (request 0x40 (writeTlp [7] 0 0 0x100000000)) (writeTlp [7] 0 0 0x100000000) ∧
      Instr.mwr64 ∈ [.decodeAny, if needs64 0x100000000 then .mwr64 else .mwr32]) ∧
    (LegalStatus 0 ∧ HoldsInput (running (request 0x40 (cplTlp 0 0 1 0 0 0))) (request 0x40 (cplTlp 0 0 1 0 0 0)) (cplTlp 0 0 1 0 0 0) ∧
      Instr.cpl ∈ [.decodeAny, .cpl]) ∧
    (LegalCplData 4 0 [1, 2, 3, 4] ∧ HoldsInput (running (request 0x40 (cplDTlp 0 0 4 0 0 0 [1, 2, 3, 4])))
      (request 0x40 (cplDTlp 0 0 4 0 0 0 [1, 2, 3, 4])) (cplDTlp 0 0 4 0 0 0 [1, 2, 3, 4])) ∧
    (LegalCfgPayload false [] ∧ HoldsInput (running (request 0x40 (cfgTlp true false 0 0 0 0 0 [])))
      (request 0x40 (cfgTlp true false 0 0 0 0 0 [])) (cfgTlp true false 0 0 0 0 0 [])) :=
  ⟨⟨legalTransfer_of (by decide), holdsInput_request _ _ (by decide), by decide⟩,
    ⟨legalTransfer_of (by decide), holdsInput_request _ _ (by decide), by decide⟩,
    ⟨.inl rfl, holdsInput_request _ _ (by decide), by decide⟩, ⟨by unfold LegalCplData; decide, holdsInput_request _ _ (by decide)⟩,
    rfl, holdsInput_request _ _ (by decide)⟩

theorem witness_RowsWithoutVariantAnswerUnsupported :
    HoldsInput (running (request 0x40 [0x30, 0, 0, 0])) (request 0x40 [0x30, 0, 0, 0]) [0x30, 0, 0, 0] ∧
    4 ≤ [(0x30 : Byte), 0, 0, 0].length ∧ Instr.msg 0 ∈ [Instr.mrdLk32, .msg 0] :=
  ⟨holdsInput_request _ _ (by decide), by decide, by decide⟩

theorem witness_TlpRowIsDecodeAny :
    HoldsInput (running (request 0x40 [0xBF, 0, 0, 0])) (request 0x40 [0xBF, 0, 0, 0]) [0xBF, 0, 0, 0] ∧
    (Instr.reservedFmt5 31).wf = true ∧ encode (.reservedFmt5 31) = [0x40, byteOf [0xBF, 0, 0, 0] 0] :=
  ⟨holdsInput_request _ _ (by decide), rfl, rfl⟩

end Sys2Proof.Tests
end

section
/-! PROOF. What every operation answers: the checks of the pseudocode raise errors and no success (60_exceptions.md R254), and
what follows them fills OUT_BUF exactly below OUT_LEN (10_state.md R26), so each response is complete. -/

namespace Sys2Proof.Proofs

open Sys2Proof Sys2Proof.Machine Sys2Proof.Safety

/-! ## A small logic for the pseudocode -/

/-- `raise E(F)` names an error, not OK or NONE (60_exceptions.md R254). -/
def isError (e : Raise) : Bool := e.status != .ok && e.field != .noField

theorem isError_iff {e : Raise} : isError e = true ↔ e.status ≠ .ok ∧ e.field ≠ .noField := by
  simp [isError]

/-- The pseudocode ends with a value of which `P` holds, or raises an error. -/
def Yields {α : Type} (P : α → Prop) : Except Raise α → Prop
  | .ok a => P a
  | .error e => isError e = true

theorem Yields.mono {α : Type} {P Q : α → Prop} {x : Except Raise α} (hx : Yields P x) (h : ∀ a, P a → Q a) :
    Yields Q x := by
  cases x with
  | ok a => exact h a hx
  | error e => exact hx

theorem Yields.bind {α β : Type} {P : α → Prop} {Q : β → Prop} {x : Except Raise α} {g : α → Except Raise β}
    (hx : Yields P x) (hg : ∀ a, P a → Yields Q (g a)) : Yields Q (x >>= g) := by
  cases x with
  | ok a => exact hg a hx
  | error e => exact hx

/-- A check makes its condition known to what follows it. -/
theorem yields_require {c : Bool} {st : Status} {f : ErrField} (he : isError ⟨st, f⟩ = true := by rfl) :
    Yields (fun _ => c = true) (require c st f) := by
  cases c with
  | true => exact rfl
  | false => exact he

theorem Yields.check {α : Type} {P : α → Prop} {c : Bool} {st : Status} {f : ErrField} {g : Unit → Except Raise α}
    (hg : c = true → Yields P (g ())) (he : isError ⟨st, f⟩ = true := by rfl) : Yields P (require c st f >>= g) :=
  (yields_require he).bind fun _ hc => hg hc

/-! ## What OUT_LEN and OUT_BUF hold -/

/-- The bytes of a response's output: those below OUT_LEN, at most the 4112 of the buffer, and no others (10_state.md R26). -/
def OutputFits (resp : Response) : Prop := OutConsistent resp ∧ Memory.wf 4112 resp.outBuf = true

theorem outputFits_of_none {resp : Response} (hl : resp.outLen = none) (hb : resp.outBuf = []) : OutputFits resp := by
  refine ⟨fun a => ?_, by rw [hb]; rfl⟩
  simp [hl, hb]

theorem outputFits_of_bytes {resp : Response} {out : List Byte} (hl : resp.outLen = some (BitVec.ofNat 13 out.length))
    (hb : resp.outBuf = outBytes out) (hout : out.length ≤ 4112) : OutputFits resp := by
  refine ⟨fun a => ?_, hb ▸ Memory.wf_outBytes hout⟩
  simp [hl, hb, Nat.mod_eq_of_lt (show out.length < 8192 by omega)]

/-- A payload of a TLP is output where the buffer holds it whole. -/
theorem outputFits_of_payload {resp : Response} {tlp : List Byte} {a n : Nat} (hl : resp.outLen = some (BitVec.ofNat 13 n))
    (hb : resp.outBuf = outBytes (inBytes tlp a n)) (hn : a + n ≤ tlp.length ∨ n = 0) (hbound : n ≤ 4112) : OutputFits resp := by
  have hlen : (inBytes tlp a n).length = n := by
    simp only [inBytes, List.length_take, List.length_drop]
    omega
  exact outputFits_of_bytes (by rw [hl, hlen]) hb (by omega)

/-! ## The encoders and the Device ID commands -/

@[simp] theorem length_hdr16 (v : Nat) : (hdr16 v).length = 2 := rfl

@[simp] theorem length_beBytes (k v : Nat) : (beBytes k v).length = k := by
  induction k with
  | zero => rfl
  | succ k ih => simp [beBytes, ih]

theorem length_inBytes_le (tlp : List Byte) (a n : Nat) : (inBytes tlp a n).length ≤ n := by
  simp [inBytes]

@[simp] theorem length_zeroBytes (k : Nat) : (zeroBytes k).length = k := by
  simp [zeroBytes]

theorem length_memoryHeader (o : Operands) (fmt : Nat) (w64 : Bool) (L : Nat) (fbe lbe : BitVec 4) :
    (memoryHeader o fmt w64 L fbe lbe).length = if w64 then 16 else 12 := by
  cases w64 <;> simp [memoryHeader]

theorem length_memoryHeader_le (o : Operands) (fmt : Nat) (w64 : Bool) (L : Nat) (fbe lbe : BitVec 4) :
    (memoryHeader o fmt w64 L fbe lbe).length ≤ 16 := by
  rw [length_memoryHeader]
  split <;> omega

theorem length_completionHeader (o : Operands) (fmt L : Nat) : (completionHeader o fmt L).length = 12 := by
  simp [completionHeader]

theorem length_configHeader (o : Operands) (fmt : Nat) : (configHeader o fmt).length = 12 := by
  simp [configHeader]

/-- A transfer of `n` bytes takes the dwords that cover it (42_memory_rw.md R160). -/
theorem countToBe_dwords (n : Nat) : (countToBe n).1 = (n + 3) / 4 := by
  unfold countToBe
  by_cases h : ceilDiv n 4 = 1
  · rw [if_pos h]; rfl
  · rw [if_neg h]; rfl

theorem yields_addrCheck (a : BitVec 64) (wsel : BitVec 2) : Yields (fun _ => True) (addrCheck a wsel) := by
  refine .check fun _ => ?_
  split_ifs
  · trivial
  · exact .check fun _ => trivial
  · exact .check fun _ => trivial

theorem yields_mrdEncode (o : Operands) : Yields OutputFits (mrdEncode o) := by
  unfold mrdEncode
  rcases countToBe o.byteCount with ⟨L, fbe, lbe⟩
  refine .check fun _ => .check fun _ => (yields_addrCheck _ _).bind fun w64 _ => ?_
  have hlen := length_memoryHeader_le o 0 w64 L fbe lbe
  exact outputFits_of_bytes rfl rfl (by omega)

theorem yields_mwrEncode (o : Operands) : Yields OutputFits (mwrEncode o) := by
  have hdw := countToBe_dwords o.inLen
  unfold mwrEncode
  generalize countToBe o.inLen = enables at hdw ⊢
  obtain ⟨L, fbe, lbe⟩ := enables
  refine .check fun _ => .check fun hn => (yields_addrCheck _ _).bind fun w64 _ => ?_
  have hbound : o.inLen ≤ 4096 := (of_decide_eq_true hn).2
  have hhdr := length_memoryHeader_le o 2 w64 L fbe lbe
  have hpay := length_inBytes_le o.input 0 o.inLen
  refine outputFits_of_bytes rfl rfl ?_
  simp only [List.length_append, length_zeroBytes] at hdw ⊢
  omega

theorem yields_cplEncode (o : Operands) : Yields OutputFits (cplEncode o) := by
  refine .check fun _ => .check fun _ => ?_
  split_ifs
  · refine .check fun hn => .check fun _ => ?_
    have hbound : o.inLen ≤ 4096 := (of_decide_eq_true hn).2.1
    have hhdr := length_completionHeader o 2 (o.inLen / 4)
    have hpay := length_inBytes_le o.input 0 (4 * (o.inLen / 4))
    refine outputFits_of_bytes rfl rfl ?_
    rw [List.length_append]
    omega
  · exact .check fun _ => outputFits_of_bytes rfl rfl (by rw [length_completionHeader]; omega)

theorem yields_cfgEncode (o : Operands) : Yields OutputFits (cfgEncode o) := by
  refine .check fun _ => ?_
  split_ifs
  · refine .check fun _ => outputFits_of_bytes rfl rfl ?_
    have hpay := length_inBytes_le o.input 0 4
    rw [List.length_append, length_configHeader]
    omega
  · exact .check fun _ => outputFits_of_bytes rfl rfl (by rw [length_configHeader]; omega)

theorem yields_classify (o : Operands) : Yields OutputFits (classify o) :=
  .check fun _ => outputFits_of_none rfl rfl

theorem yields_devidPack (o : Operands) : Yields OutputFits (devidPack o) :=
  .check fun _ => .check fun _ => .check fun _ => outputFits_of_none rfl rfl

theorem yields_devidParse (o : Operands) : Yields OutputFits (devidParse o) := by
  unfold devidParse
  split
  · exact rfl
  · exact .check fun _ => .check fun _ => outputFits_of_none rfl rfl

theorem outputFits_devidFormat (o : Operands) : OutputFits (devidFormat o) :=
  outputFits_of_bytes (out := formatId o.id16) rfl rfl (by simp [formatId, hex2])

/-! ## The decoders -/

theorem lengthValue_bounds {f : Nat} (h : f < 1024) : 1 ≤ lengthValue f ∧ lengthValue f ≤ 1024 := by
  unfold lengthValue Config.maxPayloadDw
  split <;> omega

theorem lengthValue_rawLength_bounds (tlp : List Byte) :
    1 ≤ lengthValue (rawLength tlp) ∧ lengthValue (rawLength tlp) ≤ 1024 :=
  lengthValue_bounds (Nat.mod_lt _ (by omega))

theorem yields_decodePrologue (accepts : Kind → Bool) (kind : Kind) (tlp : List Byte) :
    Yields (fun _ => headerBytes tlp ≤ tlp.length) (decodePrologue accepts kind tlp) :=
  .check fun _ => .check fun _ => Yields.mono yields_require fun _ => of_decide_eq_true

theorem yields_checkMbz (kind : Kind) (tlp : List Byte) : Yields (fun _ => True) (checkMbz kind tlp) :=
  Yields.mono yields_require fun _ _ => trivial

/-- After the payload check exactly `need` bytes follow the header (45_validation.md R233). -/
theorem yields_checkPayload (tlp : List Byte) (hdr need : Nat) :
    Yields (fun _ => tlp.length - hdr = need) (checkPayload tlp hdr need) := by
  refine .check fun hlow => Yields.mono yields_require fun _ hhigh => ?_
  have := of_decide_eq_true hlow
  have := of_decide_eq_true hhigh
  omega

theorem yields_maskCount (m : BitVec 4) {st : Status} {f : ErrField} (he : isError ⟨st, f⟩ = true) :
    Yields (· ≤ 4) (defined (maskCount m) st f) := by
  unfold maskCount
  split_ifs
  case neg => exact he
  all_goals exact Nat.le_of_ble_eq_true rfl

/-- The byte enables of `L` dwords enable at most `4 * L` bytes (42_memory_rw.md R161). -/
theorem yields_beToCount {L : Nat} (hL : 1 ≤ L) (fbe lbe : BitVec 4) : Yields (· ≤ 4 * L) (beToCount L fbe lbe) := by
  unfold beToCount
  split_ifs with h1
  · refine .check fun _ => (yields_maskCount fbe rfl).bind fun n hn => .check fun _ => ?_
    show n ≤ 4 * L
    omega
  · refine .check fun _ => (yields_maskCount lbe rfl).bind fun n hn => ?_
    show 4 * (L - 1) + n ≤ 4 * L
    omega

theorem yields_memoryChecks (kind : Kind) (tlp : List Byte) :
    Yields (· ≤ 4 * lengthValue (rawLength tlp)) (memoryChecks kind tlp) :=
  (yields_checkMbz kind tlp).bind fun _ _ =>
    (yields_beToCount (lengthValue_rawLength_bounds tlp).1 _ _).bind fun _ hn => .check fun _ => hn

theorem yields_mrdDecodeAs (kind : Kind) (tlp : List Byte) : Yields OutputFits (mrdDecodeAs kind tlp) :=
  (yields_decodePrologue _ kind tlp).bind fun _ _ => (yields_memoryChecks kind tlp).bind fun _ _ =>
    (yields_checkPayload _ _ _).bind fun _ _ => outputFits_of_none rfl rfl

theorem yields_mwrDecodeAs (kind : Kind) (tlp : List Byte) : Yields OutputFits (mwrDecodeAs kind tlp) := by
  refine (yields_decodePrologue _ kind tlp).bind fun _ hhdr => (yields_memoryChecks kind tlp).bind fun n hn =>
    (yields_checkPayload _ _ _).bind fun _ hpay => .check fun _ => ?_
  have hL := lengthValue_rawLength_bounds tlp
  exact outputFits_of_payload (tlp := tlp) (a := headerBytes tlp) (n := n) rfl rfl (by omega) (by omega)

theorem yields_cplDecodeAs (kind : Kind) (tlp : List Byte) : Yields OutputFits (cplDecodeAs kind tlp) := by
  refine (yields_decodePrologue _ kind tlp).bind fun _ _ => (yields_checkMbz kind tlp).bind fun _ _ => .check fun _ => ?_
  split_ifs
  · refine (yields_checkPayload _ _ _).bind fun _ hpay => .check fun _ => ?_
    have hL := lengthValue_rawLength_bounds tlp
    exact outputFits_of_payload (tlp := tlp) (a := 12) rfl rfl (by omega) (by omega)
  · refine .check fun _ => (yields_checkPayload _ _ _).bind fun _ _ => ?_
    exact outputFits_of_payload (tlp := tlp) (a := 12) (n := 4 * 0) rfl rfl (by omega) (by omega)

theorem yields_cfgDecodeAs (kind : Kind) (tlp : List Byte) : Yields OutputFits (cfgDecodeAs kind tlp) := by
  refine (yields_decodePrologue _ kind tlp).bind fun _ _ => (yields_checkMbz kind tlp).bind fun _ _ =>
    .check fun _ => .check fun _ => (yields_checkPayload _ _ _).bind fun _ hpay => ?_
  refine outputFits_of_payload (tlp := tlp) (a := 12) rfl rfl ?_ ?_
  · split_ifs at hpay ⊢ <;> omega
  · split_ifs <;> omega

/-! ## Every response is complete -/

theorem completeResponse_raiseError {e : Raise} (he : isError e = true) : CompleteResponse (raiseError e) := by
  obtain ⟨hst, hf⟩ := isError_iff.1 he
  obtain ⟨hout, hwf⟩ := outputFits_of_none (raiseError_outLen e) (raiseError_outBuf e)
  exact ⟨rfl, rfl, by simp [hst, hf], fun _ => rfl, hout, hwf⟩

theorem completeResponse_succeed {resp : Response} (h : OutputFits resp) : CompleteResponse (succeed resp) :=
  ⟨rfl, rfl, by simp, fun hne => absurd rfl hne, h.1, h.2⟩

theorem completeResponse_respond {x : Except Raise Response} (hx : Yields OutputFits x) : CompleteResponse (respond x) := by
  cases x with
  | ok resp => exact completeResponse_succeed hx
  | error e => exact completeResponse_raiseError hx

/-- DECODE_ANY's own fields may be valid after an error too (60_exceptions.md R254). -/
theorem completeResponse_withCandidates (c : PerCandidate (Except Raise Response)) (w : BitVec 3) {resp : Response}
    (h : CompleteResponse resp) : CompleteResponse (withCandidates c w resp) := by
  refine ⟨h.status, h.errField, h.agree, fun hne => ?_, h.out, h.outWf⟩
  have herr := h.error hne
  unfold OnlyErrorFields at herr ⊢
  rw [withCandidates, herr]

theorem completeResponse_withinBuffer {op : Operands → Response} (h : ∀ o, CompleteResponse (op o)) (o : Operands) :
    CompleteResponse (withinBuffer op o) := by
  unfold withinBuffer
  split
  · exact completeResponse_raiseError rfl
  · exact h o

/-- The four candidates of a DECODE_ANY each end as a decoder does. -/
def CandidatesYield (c : PerCandidate (Except Raise Response)) : Prop := ∀ x ∈ resultList c, Yields OutputFits x

theorem candidatesYield_mk {a b c d : Except Raise Response} (ha : Yields OutputFits a) (hb : Yields OutputFits b)
    (hc : Yields OutputFits c) (hd : Yields OutputFits d) : CandidatesYield ⟨a, b, c, d⟩ := by
  simp [CandidatesYield, resultList, ha, hb, hc, hd]

/-- A winner's fields are those of a candidate that succeeded. -/
theorem mem_winners {c : PerCandidate (Except Raise Response)} {i : Nat} {resp : Response} (h : (i, resp) ∈ winners c) :
    Except.ok resp ∈ resultList c := by
  obtain ⟨⟨x, j⟩, hmem, hx⟩ := List.mem_filterMap.1 h
  cases x with
  | ok resp' =>
    obtain ⟨rfl, rfl⟩ : j = i ∧ resp' = resp := by simpa using hx
    exact List.fst_mem_of_mem_zipIdx hmem
  | error e => cases hx

/-- The overall verdict is complete whatever candidate it names: its status and its field are of one result. -/
theorem completeResponse_overallError {c : PerCandidate (Except Raise Response)} (hc : CandidatesYield c) :
    CompleteResponse (raiseError (overallError c)) := by
  unfold overallError
  split
  · rename_i x hx
    cases x with
    | ok resp =>
      obtain ⟨hout, hwf⟩ := outputFits_of_none (raiseError_outLen ⟨.ok, .noField⟩) (raiseError_outBuf _)
      exact ⟨rfl, rfl, by simp [candidateStatus, candidateField], fun _ => rfl, hout, hwf⟩
    | error e => exact completeResponse_raiseError (hc _ (List.mem_of_find?_eq_some hx))
  · exact completeResponse_raiseError rfl

theorem completeResponse_verdict {c : PerCandidate (Except Raise Response)} (hc : CandidatesYield c) :
    CompleteResponse (verdict c) := by
  unfold verdict
  split
  · rename_i i resp hw
    have hmem : (i, resp) ∈ winners c := by simp [hw]
    exact completeResponse_withCandidates c _ (completeResponse_succeed (hc _ (mem_winners hmem)))
  · exact completeResponse_withCandidates c _ (completeResponse_overallError hc)

theorem completeResponse_decodeAny (tlp : List Byte) : CompleteResponse (decodeAny tlp) :=
  completeResponse_verdict (candidatesYield_mk (yields_mrdDecodeAs _ tlp) (yields_mwrDecodeAs _ tlp)
    (yields_cplDecodeAs _ tlp) (yields_cfgDecodeAs _ tlp))

theorem yields_unsupported : Yields OutputFits unsupported := rfl

theorem completeResponse_dispatchKind (kind : Kind) (tlp : List Byte) : CompleteResponse (dispatchKind kind tlp) := by
  have hu := yields_unsupported
  unfold dispatchKind
  split
  · exact completeResponse_verdict (candidatesYield_mk rfl rfl rfl rfl)
  · split
    · exact completeResponse_verdict (candidatesYield_mk (yields_mrdDecodeAs kind tlp) hu hu hu)
    · exact completeResponse_verdict (candidatesYield_mk hu (yields_mwrDecodeAs kind tlp) hu hu)
    · exact completeResponse_verdict (candidatesYield_mk hu hu (yields_cplDecodeAs kind tlp) hu)
    · exact completeResponse_verdict (candidatesYield_mk hu hu hu (yields_cfgDecodeAs kind tlp))
    · exact completeResponse_verdict (candidatesYield_mk hu hu hu hu)

/-- A TLP row answers with a complete response. -/
theorem runTlp_complete (i : Instr) (kind : Kind) :
    ∃ op, (∀ s, runTlp i kind s = complete i op s) ∧ ∀ o, CompleteResponse (op o) :=
  ⟨_, fun _ => rfl, completeResponse_withinBuffer fun o => completeResponse_dispatchKind kind o.input⟩

/-- A command whose pseudocode yields an output that fits answers with a complete response. -/
theorem runCommand_complete (i : Instr) {f : Operands → Except Raise Response} (hf : ∀ o, Yields OutputFits (f o)) :
    ∃ op, (∀ s, runCommand i (fun o => respond (f o)) s = complete i op s) ∧ ∀ o, CompleteResponse (op o) :=
  ⟨_, fun _ => rfl, completeResponse_withinBuffer fun o => completeResponse_respond (hf o)⟩

/-- Every instruction is a run of an operation whose every response is complete (60_exceptions.md R253, R254). -/
theorem exec_complete_response (i : Instr) :
    ∃ op, (∀ s, exec i s = complete i op s) ∧ ∀ o, CompleteResponse (op o) := by
  cases i
  case classify => exact runCommand_complete _ yields_classify
  case devidPack => exact runCommand_complete _ yields_devidPack
  case devidUnpack =>
    exact runCommand_complete (f := fun o => .ok (devidUnpack o)) _ fun _ => outputFits_of_none rfl rfl
  case devidParse => exact runCommand_complete _ yields_devidParse
  case devidFormat => exact runCommand_complete (f := fun o => .ok (devidFormat o)) _ outputFits_devidFormat
  case mrdEncode => exact runCommand_complete _ yields_mrdEncode
  case mwrEncode => exact runCommand_complete _ yields_mwrEncode
  case mrdDecode => exact runCommand_complete _ fun o => yields_mrdDecodeAs _ o.input
  case mwrDecode => exact runCommand_complete _ fun o => yields_mwrDecodeAs _ o.input
  case cplEncode => exact runCommand_complete _ yields_cplEncode
  case cplDecode => exact runCommand_complete _ fun o => yields_cplDecodeAs _ o.input
  case cfgEncode => exact runCommand_complete _ yields_cfgEncode
  case cfgDecode => exact runCommand_complete _ fun o => yields_cfgDecodeAs _ o.input
  case decodeAny =>
    exact ⟨_, fun _ => rfl, completeResponse_withinBuffer fun o => completeResponse_decodeAny o.input⟩
  case illegalCmd cmd => exact ⟨_, fun _ => rfl, fun _ => completeResponse_raiseError rfl⟩
  all_goals exact runTlp_complete _ _

/-- What an instruction delivers is complete. -/
theorem exec_next_complete {i : Instr} {s t : State} (h : exec i s = .next t) :
    ∃ resp, t = deliver s resp ∧ CompleteResponse resp := by
  obtain ⟨op, hop, hcomplete⟩ := exec_complete_response i
  rw [hop] at h
  obtain ⟨r, -, -, ht⟩ := complete_next h
  exact ⟨_, ht, hcomplete _⟩

end Sys2Proof.Proofs
end

section
/-! PROOF. When a START is taken: the "read by" column of 10_state.md R23, read command by command, and what the block then
finds in the captured request. -/

namespace Sys2Proof.Proofs

open Sys2Proof Sys2Proof.Machine Sys2Proof.Safety

/-! ## The fields a command reads -/

theorem cmdIn_iff {r : RequestFile} {c : Byte} (hc : r.cmd = some c) (codes : List Byte) : CmdIn r codes ↔ c ∈ codes := by
  simp [CmdIn, hc]

/-- Byte `k` of a buffer is missing where it is meaningful and has no value. -/
theorem byteMissing_iff {r : RequestFile} {k : Nat} :
    ByteMissing r k ↔ k < meaningfulBytes r ∧ readByte r.inBuf k = none := by
  cases hl : r.inLen with
  | none => simp [ByteMissing, meaningfulBytes, hl]
  | some l =>
    by_cases hle : l.toNat ≤ 4112
    · simp [ByteMissing, meaningfulBytes_of hl hle, hl, hle]
    · simp [ByteMissing, meaningfulBytes, Config.maxInBytes, hl, hle]

theorem inBuf_unwritten_iff {r : RequestFile} : fieldWritten r .inBuf = false ↔ ∃ k, ByteMissing r k := by
  rw [← Bool.not_eq_true, fieldWritten, bytesWritten_iff]
  simp [byteMissing_iff]

/-- At least 4 bytes are meaningful where IN_LEN is at least 4 and the block takes it. -/
theorem four_le_meaningfulBytes_iff {r : RequestFile} :
    4 ≤ meaningfulBytes r ↔ (∃ l, r.inLen = some l ∧ 4 ≤ l.toNat) ∧ 0 < meaningfulBytes r := by
  cases hl : r.inLen with
  | none => simp [meaningfulBytes, hl]
  | some l =>
    by_cases hle : l.toNat ≤ 4112
    · simp only [meaningfulBytes_of hl hle, Option.some.injEq, exists_eq_left']
      omega
    · simp [meaningfulBytes, Config.maxInBytes, hl, hle]

theorem inByte0_unwritten_iff {r : RequestFile} : fieldWritten r .inByte0 = false ↔
    (∃ l, r.inLen = some l ∧ 4 ≤ l.toNat) ∧ ByteMissing r 0 := by
  rw [byteMissing_iff, ← and_assoc, ← four_le_meaningfulBytes_iff]
  simp only [fieldWritten, Bool.or_eq_false_iff, decide_eq_false_iff_not, Nat.not_lt, Option.isSome_eq_false_iff,
    Option.isNone_iff_eq_none]
  rfl

/-- A CMD value that is no command's code selects ILLEGAL_CMD (30_encoding.md R111). -/
theorem decodeCommand_of_not_code {c : Byte} (h : c ∉ commandCodes) : decodeCommand c = .illegalCmd c := by
  have hnone : commandRows.lookup c = none := List.lookup_eq_none_iff.2 fun row hrow =>
    bne_iff_ne.2 fun hcode => h (hcode ▸ List.mem_map_of_mem (f := Prod.fst) hrow)
  simp [decodeCommand, hnone]

/-- The "read by" column of the statements names the fields of the model's list, command by command (10_state.md R23). -/
theorem missingOperand_iff {r : RequestFile} {c : Byte} (hc : r.cmd = some c) :
    MissingOperand r ↔ r.inLen = none ∨ ∃ f ∈ operandFields (decodeCommand c), fieldWritten r f = false := by
  by_cases hcode : c ∈ commandCodes
  · simp only [commandCodes, List.mem_cons, List.not_mem_nil, or_false] at hcode
    rcases hcode with rfl | rfl | rfl | rfl | rfl | rfl | rfl | rfl | rfl | rfl | rfl | rfl | rfl | rfl <;>
      simp only [MissingOperand, cmdIn_iff hc, hc, ← inBuf_unwritten_iff, ← inByte0_unwritten_iff] <;>
      simp [decodeCommand, commandRows, decodeAnyCode, List.lookup, operandFields, fieldWritten] <;> tauto
  · have hno : ∀ codes, codes ⊆ commandCodes → ¬ CmdIn r codes := fun codes hsub hin =>
      hcode (hsub ((cmdIn_iff hc codes).1 hin))
    simp (disch := decide) [MissingOperand, hno, hc, decodeCommand_of_not_code hcode, operandFields]

/-- A request is ready exactly where no field its command reads is missing (10_state.md R25). -/
theorem requestReady_iff {r : RequestFile} : requestReady r = true ↔ ¬ MissingOperand r := by
  cases hc : r.cmd with
  | none => simp [requestReady, requestInstr, MissingOperand, hc]
  | some c =>
    rw [missingOperand_iff hc]
    simp [requestReady, requestInstr, hc, fieldsRead, fieldsWritten, fieldWritten, Option.ne_none_iff_isSome]

/-! ## What the block finds in a ready request -/

/-- A row of byte 0 reads what DECODE_ANY reads (40_header_classify.md R133). -/
theorem operandFields_decodeTlpByte0 (b : Byte) : operandFields (decodeTlpByte0 b) = [.inBuf] := by
  unfold decodeTlpByte0
  split
  · rename_i i hi
    have hrows : ∀ row ∈ tlpRows, operandFields row.2 = [.inBuf] := by decide
    obtain ⟨l₁, l₂, hl, -⟩ := List.lookup_eq_some_iff.1 hi
    exact hrows (b, i) (by simp [hl])
  · split_ifs <;> rfl

/-- The image of a ready request is an instruction, and the request holds the fields it reads (10_state.md R33; log 5). -/
theorem requestImage_of_ready {r : RequestFile} (h : requestReady r = true) :
    ∃ image i, requestImage r = .ok image ∧ decode image = .ok i ∧ fieldsWritten r (fieldsRead i) = true := by
  cases hc : r.cmd with
  | none => simp [requestReady, requestInstr, hc] at h
  | some c =>
    have hw : fieldsWritten r (fieldsRead (decodeCommand c)) = true := by simpa [requestReady, requestInstr, hc] using h
    by_cases htlp : c = decodeAnyCode ∧ tlpPresent r = true
    · obtain ⟨rfl, hpresent⟩ := htlp
      have hbuf : fieldWritten r .inBuf = true :=
        List.all_eq_true.1 hw .inBuf (by decide)
      have hpos : 0 < meaningfulBytes r := lt_of_lt_of_le (by decide) (of_decide_eq_true hpresent)
      obtain ⟨b0, hb0⟩ := Option.isSome_iff_exists.1 ((bytesWritten_iff _ _ _).1 hbuf 0 le_rfl (by omega))
      refine ⟨[decodeAnyCode, b0], decodeTlpByte0 b0, by simp [requestImage, hc, hpresent, hb0], by simp [decode], ?_⟩
      rw [fieldsRead, operandFields_decodeTlpByte0]
      exact hw
    · exact ⟨[c], decodeCommand c, by simp [requestImage, hc, htlp], rfl, hw⟩

/-- The finish runs the instruction that the captured request's image decodes to. -/
theorem finish_eq_exec {s : State} {r : RequestFile} {image : List Byte} {i : Instr} (hr : s.captured = some r)
    (himage : requestImage r = .ok image) (hi : decode image = .ok i) : finish s = exec i s := by
  simp [finish, fetchImage, hr, himage, hi]

/-- A response is a function of the captured request: from every state that captured `r`, the finish delivers the same
complete response (10_state.md R22). -/
theorem finish_of_ready {r : RequestFile} (h : requestReady r = true) : ∃ image i resp,
    requestImage r = .ok image ∧ decode image = .ok i ∧ CompleteResponse resp ∧
    ∀ s : State, s.captured = some r → finish s = exec i s ∧ exec i s = .next (deliver s resp) := by
  obtain ⟨image, i, himage, hi, hw⟩ := requestImage_of_ready h
  obtain ⟨op, hop, hcomplete⟩ := exec_complete_response i
  exact ⟨image, i, op (operandsOf r), himage, hi, hcomplete _, fun s hr =>
    ⟨finish_eq_exec hr himage hi, by rw [hop, complete_eq hr hw]⟩⟩

/-! ## One instruction -/

/-- Two states with the same captured request are given the same response. -/
theorem exec_of_captured {i : Instr} {s s' t : State} (hc : s.captured = s'.captured) (h : exec i s = .next t) :
    exec i s' = .next (deliver s' t.resp) := by
  obtain ⟨op, hop⟩ := exec_complete i
  rw [hop] at h
  obtain ⟨r, hr, hw, rfl⟩ := complete_next h
  rw [hop, complete_eq (hc ▸ hr) hw, deliver_resp]

end Sys2Proof.Proofs
end

section
/-! PROOF. The invariant of a run: each action of the host and the block's own step keep it (10_state.md R31, R33, R34), and
under it the block's own step answers. -/

namespace Sys2Proof.Proofs

open Sys2Proof Sys2Proof.Machine Sys2Proof.Safety

/-! ## The next step -/

theorem step_of_hostNext {s : State} {a : HostAction} {rest : List HostAction} (h : HostNext s a rest) :
    step s = hostStep a { s with hostQueue := rest } := by
  simp only [step, machineStep, show s.hostQueue = a :: rest from h]

theorem step_of_no_action {s : State} (h : s.hostQueue = []) : step s = blockStep s := by
  simp only [step, machineStep, h]

theorem hostStart_of_busy {s : State} (h : s.phase = .busy) : hostStart s = .next s := by
  simp [hostStart, h]

theorem hostStart_of_ready {s : State} (hp : s.phase ≠ .busy) (h : requestReady s.req = true) :
    hostStart s = .next { s with
      captured := some s.req
      resp := .invalid
      phase := .busy
      remaining := Config.latency s.req } := by
  simp [hostStart, hp, h]

theorem hostStart_of_not_ready {s : State} (hp : s.phase ≠ .busy) (h : ¬ requestReady s.req = true) :
    hostStart s = .fault .unwrittenField := by
  simp [hostStart, hp, h]

theorem blockStep_of_not_busy {s : State} (h : s.phase ≠ .busy) : blockStep s = .next s := by
  unfold blockStep
  cases hp : s.phase with
  | idle | done => rfl
  | busy => exact absurd hp h

theorem blockStep_of_running {s : State} (hp : s.phase = .busy) (h : 2 ≤ s.remaining) :
    blockStep s = .next { s with remaining := s.remaining - 1 } := by
  simp [blockStep, hp, show 1 < s.remaining from h]

theorem blockStep_of_over {s : State} (hp : s.phase = .busy) (h : s.remaining ≤ 1) : blockStep s = finish s := by
  simp [blockStep, hp, Nat.not_lt.2 h]

/-! ## What the invariant says in each phase -/

theorem phaseInv_of_idle {s : State} (h : s.phase = .idle) : PhaseInv s ↔ s.captured = none ∧ s.resp = Response.invalid := by
  simp only [PhaseInv, h]

theorem phaseInv_of_busy {s : State} (h : s.phase = .busy) : PhaseInv s ↔
    (∃ r, s.captured = some r ∧ requestReady r = true) ∧ s.resp = Response.invalid ∧ 1 ≤ s.remaining := by
  simp only [PhaseInv, h]

theorem phaseInv_of_done {s : State} (h : s.phase = .done) : PhaseInv s ↔
    (∃ r, s.captured = some r ∧ requestReady r = true) ∧ CompleteResponse s.resp := by
  simp only [PhaseInv, h]

/-- After reset both buffers are empty and PHASE is IDLE (10_state.md R35). -/
theorem inv_reset : Inv State.reset where
  reqWf := rfl
  capturedWf _ h := by cases h
  phase := (phaseInv_of_idle rfl).2 ⟨rfl, rfl⟩

/-! ## Every step keeps the invariant -/

/-- The host's own fields are no part of the invariant (log 1, log 11). -/
theorem inv_with_host {s : State} (hs : Inv s) (queue : List HostAction) (data : Option Nat) :
    Inv { s with hostQueue := queue, readData := data } :=
  ⟨hs.reqWf, hs.capturedWf, hs.phase⟩

theorem wf_writeRequest {r : RequestFile} {w : HostWrite} (hr : Memory.wf 4112 r.inBuf = true) (hw : writeExists w = true) :
    Memory.wf 4112 (writeRequest r w).inBuf = true := by
  cases w
  case inBuf offset v => exact Memory.wf_writeByte v hr (of_decide_eq_true hw)
  all_goals exact hr

theorem inv_hostWrite {w : HostWrite} {s t : State} (hs : Inv s) (h : hostWrite w s = .next t) : Inv t := by
  obtain ⟨hw, rfl⟩ := hostWrite_next h
  exact ⟨wf_writeRequest hs.reqWf hw, hs.capturedWf, hs.phase⟩

theorem inv_hostStart {s t : State} (hs : Inv s) (h : hostStart s = .next t) : Inv t := by
  obtain ⟨-, rfl⟩ | ⟨-, hready, rfl⟩ := hostStart_next h
  · exact hs
  · exact ⟨hs.reqWf, fun r hr => Option.some.inj hr ▸ hs.reqWf,
      (phaseInv_of_busy rfl).2 ⟨⟨_, rfl, hready⟩, rfl, Nat.succ_pos _⟩⟩

theorem inv_hostRead {f : RespField} {s t : State} (hs : Inv s) (h : hostRead f s = .next t) : Inv t := by
  obtain ⟨v, -, rfl⟩ := hostRead_next h
  exact inv_with_host hs s.hostQueue (some v)

/-- The finish leaves a complete response where a ready request was captured. -/
theorem inv_finish {s t : State} (hs : Inv s) (hp : s.phase = .busy) (h : finish s = .next t) : Inv t := by
  obtain ⟨image, i, -, -, hexec⟩ := finish_next h
  obtain ⟨resp, rfl, hresp⟩ := exec_next_complete hexec
  obtain ⟨hcaptured, -, -⟩ := (phaseInv_of_busy hp).1 hs.phase
  exact ⟨hs.reqWf, hs.capturedWf, (phaseInv_of_done rfl).2 ⟨hcaptured, hresp⟩⟩

theorem inv_blockStep {s t : State} (hs : Inv s) (h : blockStep s = .next t) : Inv t := by
  obtain ⟨-, rfl⟩ | ⟨hp, hrem, rfl⟩ | ⟨hp, -, hfinish⟩ := blockStep_next h
  · exact hs
  · obtain ⟨hcaptured, hresp, -⟩ := (phaseInv_of_busy hp).1 hs.phase
    have hphase : PhaseInv { s with remaining := s.remaining - 1 } :=
      (phaseInv_of_busy (s := { s with remaining := s.remaining - 1 }) hp).2
        ⟨hcaptured, hresp, Nat.le_sub_one_of_lt hrem⟩
    exact ⟨hs.reqWf, hs.capturedWf, hphase⟩
  · exact inv_finish hs hp hfinish

theorem inv_hostStep {a : HostAction} {s t : State} (hs : Inv s) (h : hostStep a s = .next t) : Inv t := by
  cases a with
  | write w => exact inv_hostWrite hs h
  | start => exact inv_hostStart hs h
  | read f => exact inv_hostRead hs h
  | readPhase => cases h; exact inv_with_host hs s.hostQueue _
  | readDone => cases h; exact inv_with_host hs s.hostQueue _
  | reset => cases h; exact inv_with_host inv_reset s.hostQueue s.readData
  | wait => exact inv_blockStep hs h

/-- Settles O22, action by action: the finish is the step that has to build a complete response, and every operation's
pseudocode yields one. -/
theorem stepKeepsInvariant : Obligations.StepKeepsInvariant := by
  intro s t hs h
  obtain ⟨-, hstep⟩ | ⟨a, rest, -, hstep⟩ := step_cases s <;> rw [hstep] at h
  · exact inv_blockStep hs h
  · exact inv_hostStep (inv_with_host hs rest s.readData) h

/-- Settles O21. -/
theorem resetHasInvariant : Obligations.ResetHasInvariant := inv_reset

/-- Settles O23: in BUSY the captured request is ready, so its image decodes and its instruction finds what it reads. -/
theorem blockStepNeverStops : Obligations.BlockStepNeverStops := by
  intro s hs hq
  rw [step_of_no_action hq]
  by_cases hp : s.phase = .busy
  · obtain ⟨⟨r, hr, hready⟩, -, -⟩ := (phaseInv_of_busy hp).1 hs.phase
    rcases Nat.lt_or_ge s.remaining 2 with hrem | hrem
    · obtain ⟨_, _, resp, -, -, -, hrun⟩ := finish_of_ready hready
      obtain ⟨hfinish, hexec⟩ := hrun s hr
      exact ⟨_, by rw [blockStep_of_over hp (by omega), hfinish, hexec]⟩
    · exact ⟨_, blockStep_of_running hp hrem⟩
  · exact ⟨s, blockStep_of_not_busy hp⟩

/-- Settles O24: every instruction ends in a delivery. -/
theorem operationFrame : Obligations.OperationFrame := by
  intro i s t h
  obtain ⟨r, resp, -, -, rfl⟩ := exec_next h
  rfl

/-- Settles O25. -/
theorem responseDependsOnCapturedRequest : Obligations.ResponseDependsOnCapturedRequest := by
  refine ⟨fun i s s' t hc h => exec_of_captured hc h, fun s t rest hnext hp h => ?_⟩
  rw [step_of_hostNext hnext] at h
  obtain ⟨hbusy, -⟩ | ⟨-, -, rfl⟩ := hostStart_next h
  · exact absurd hbusy hp
  · rfl

end Sys2Proof.Proofs
end

section
/-! PROOF. The host's actions one by one: START, writes, reads of the response, of PHASE and of DONE (10_state.md R25 to R35),
and the block's own step as the decoded instruction. -/

namespace Sys2Proof.Proofs

open Sys2Proof Sys2Proof.Machine Sys2Proof.Safety

/-! ## START -/

theorem not_busy_of_idle_or_done {p : Phase} (h : p = .idle ∨ p = .done) : p ≠ .busy := by
  rintro rfl
  rcases h with h | h <;> cases h

/-- Settles O7: a request with nothing missing is ready. -/
theorem startCapturesTheRequest : Obligations.StartCapturesTheRequest := by
  intro s rest hnext hp hmissing
  rw [step_of_hostNext hnext]
  exact hostStart_of_ready (s := { s with hostQueue := rest }) (not_busy_of_idle_or_done hp) (requestReady_iff.2 hmissing)

/-- Settles O8: a request with a field missing is not ready. -/
theorem startOnMissingOperandFaults : Obligations.StartOnMissingOperandFaults := by
  intro s rest hnext hp hmissing
  rw [step_of_hostNext hnext]
  exact hostStart_of_not_ready (s := { s with hostQueue := rest }) (not_busy_of_idle_or_done hp)
    fun hready => requestReady_iff.1 hready hmissing

/-- Settles O9. -/
theorem startWhileBusyIsIgnored : Obligations.StartWhileBusyIsIgnored := by
  intro s rest hnext hp
  rw [step_of_hostNext hnext]
  exact hostStart_of_busy (s := { s with hostQueue := rest }) hp

/-! ## Host writes -/

theorem step_write {s : State} {w : HostWrite} {rest : List HostAction} (h : HostNext s (.write w) rest)
    (hw : writeExists w = true) : step s = .next { s with req := writeRequest s.req w, hostQueue := rest } := by
  rw [step_of_hostNext h]
  simp only [hostStep, hostWrite, hw, if_true]

/-- Settles O10: each scalar field is one that exists to be written. -/
theorem hostWriteStoresOneField : Obligations.HostWriteStoresOneField := by
  intro s rest
  and_intros <;> exact fun v h => step_write h rfl

/-! ## Host reads -/

/-- A read answers what the response register file holds, as the statements say it. -/
theorem readGives_of_respValue {s : State} {rest : List HostAction} {f : RespField} {value : Option Nat}
    (h : respValue s.resp f = value) : ReadGives s rest f value := by
  intro hnext
  rw [step_of_hostNext hnext]
  subst h
  constructor
  · intro v hv
    simp only [hostStep, hostRead, hv]
  · intro hnone
    simp only [hostStep, hostRead, hnone]

theorem lookup_statusTable (x : Status) : statusTable.lookup x = some (statusCode x) := by
  cases x <;> rfl

theorem lookup_errFieldTable (x : ErrField) : errFieldTable.lookup x = some (errFieldCode x) := by
  cases x <;> rfl

theorem lookup_kindTable (x : Kind) : kindTable.lookup x = some (kindCode x) := by
  cases x <;> rfl

/-- The numbers of a field whose codes stand in a table, for any field `g` of the value. -/
theorem map_code_eq_bind_lookup {α β : Type} [BEq β] {table : List (β × Nat)} {code : β → Nat}
    (h : ∀ x, table.lookup x = some (code x)) (value : Option α) (g : α → β) :
    (value.map fun x => code (g x)) = value.bind fun x => table.lookup (g x) := by
  cases value <;> simp [h]

theorem map_toNat_eq_bitNumber (value : Option Bool) : value.map Bool.toNat = value.map bitNumber := by
  have hbit : Bool.toNat = bitNumber := by
    funext b
    cases b <;> rfl
  rw [hbit]

theorem respValue_outBuf_beyond {resp : Response} {a : BitVec 13} (hout : OutConsistent resp)
    (ha : ∀ n, resp.outLen = some n → n.toNat ≤ a.toNat) : respValue resp (.outBuf a) = none := by
  have hnone : readByte resp.outBuf a.toNat = none := by
    rw [← Option.not_isSome_iff_eq_none, hout]
    rintro ⟨n, hn, hlt⟩
    exact absurd (ha n hn) (by omega)
  simp [respValue, hnone]

section Reads

variable {s : State} {rest : List HostAction} {f : RespField}

theorem readGives_status {α : Type} {value : Option α} {g : α → Status}
    (h : respValue s.resp f = value.map fun x => statusCode (g x)) :
    ReadGives s rest f (value.bind fun x => statusTable.lookup (g x)) :=
  readGives_of_respValue (h.trans (map_code_eq_bind_lookup lookup_statusTable value g))

theorem readGives_errField {α : Type} {value : Option α} {g : α → ErrField}
    (h : respValue s.resp f = value.map fun x => errFieldCode (g x)) :
    ReadGives s rest f (value.bind fun x => errFieldTable.lookup (g x)) :=
  readGives_of_respValue (h.trans (map_code_eq_bind_lookup lookup_errFieldTable value g))

theorem readGives_kind {value : Option Kind} (h : respValue s.resp f = value.map kindCode) :
    ReadGives s rest f (value.bind fun x => kindTable.lookup x) :=
  readGives_of_respValue (h.trans (map_code_eq_bind_lookup lookup_kindTable value id))

theorem readGives_bit {value : Option Bool} (h : respValue s.resp f = value.map Bool.toNat) :
    ReadGives s rest f (value.map bitNumber) :=
  readGives_of_respValue (h.trans (map_toNat_eq_bitNumber value))

end Reads

/-- Settles O12, in the order of the response register file: each field reads as bits, as one bit, or as a code of its table;
a byte of OUT_BUF at or beyond OUT_LEN has no value. -/
theorem hostReadOfTheResponse : Obligations.HostReadOfTheResponse := by
  intro s rest
  have bits : ∀ {f value}, respValue s.resp f = value → ReadGives s rest f value := readGives_of_respValue
  exact ⟨
    -- STATUS, ERR_FIELD, KIND
    readGives_status rfl, readGives_errField rfl, readGives_kind rfl,
    -- FMT, TYPE, HAS_PAYLOAD, ADDR64, HDR_DW
    bits rfl, bits rfl, readGives_bit rfl, readGives_bit rfl, bits rfl,
    -- REQ_ID, TAG, ADDR, LENGTH_DW, BYTE_COUNT, FIRST_BE, LAST_BE
    bits rfl, bits rfl, bits rfl, bits rfl, bits rfl, bits rfl, bits rfl,
    -- CPL_ID, CPL_STATUS, LOWER_ADDR, HAS_DATA
    bits rfl, bits rfl, bits rfl, readGives_bit rfl,
    -- CFG_TYPE, CFG_WRITE, TGT_ID, REG_INDEX, REG_NUM, EXT_REG
    readGives_bit rfl, readGives_bit rfl, bits rfl, bits rfl, bits rfl, bits rfl,
    -- BUS, DEV, FUNC, ID16, OUT_LEN, WINNER
    bits rfl, bits rfl, bits rfl, bits rfl, bits rfl, bits rfl,
    -- OUT_BUF, anywhere and at or beyond OUT_LEN
    fun _ => bits rfl, fun _ hout hbeyond => bits (respValue_outBuf_beyond hout hbeyond),
    -- CAND_STATUS and CAND_FIELD, candidate by candidate
    readGives_status rfl, readGives_status rfl, readGives_status rfl, readGives_status rfl,
    readGives_errField rfl, readGives_errField rfl, readGives_errField rfl, readGives_errField rfl⟩

theorem respValue_invalid (f : RespField) : respValue Response.invalid f = none := by
  cases f <;> rfl

/-- Settles O13: in BUSY every valid bit is clear. -/
theorem readWhileBusyFaults : Obligations.ReadWhileBusyFaults := by
  intro s rest f hs hp hnext
  obtain ⟨-, hresp, -⟩ := (phaseInv_of_busy hp).1 hs.phase
  exact (readGives_of_respValue (hresp ▸ respValue_invalid f) hnext).2 rfl

/-- Settles O5. -/
theorem resetState : Obligations.ResetState :=
  ⟨rfl, rfl, rfl, respValue_invalid, rfl⟩

theorem phaseCode_eq (p : Phase) : phaseCode p = if p = .idle then 0 else if p = .busy then 1 else 2 := by
  cases p <;> rfl

theorem doneFlag_toNat (s : State) : (doneFlag s).toNat = if s.phase = .done then 1 else 0 := by
  by_cases h : s.phase = .done <;> simp [doneFlag, h]

/-- Settles O14. -/
theorem phaseAndDoneRead : Obligations.PhaseAndDoneRead := by
  intro s rest
  constructor <;> intro hnext <;> rw [step_of_hostNext hnext]
  · rw [← phaseCode_eq]
    rfl
  · rw [← doneFlag_toNat]
    rfl

/-! ## The block's own step -/

theorem step_wait {s : State} {rest : List HostAction} (h : HostNext s .wait rest) :
    step s = blockStep { s with hostQueue := rest } := step_of_hostNext h

/-- Settles O16: a `wait` leaves the block the step it would take alone. -/
theorem stepRunsTheDecodedInstruction : Obligations.StepRunsTheDecodedInstruction := by
  intro s i r image hr himage hi hp
  refine ⟨fun hq hrem => ?_, fun hq hrem => ?_, fun rest hnext hrem => ?_, fun rest hnext hrem => ?_⟩
  · rw [step_of_no_action hq, blockStep_of_over hp hrem, finish_eq_exec hr himage hi]
  · rw [step_of_no_action hq, blockStep_of_running hp hrem]
  · rw [step_wait hnext, blockStep_of_over (s := { s with hostQueue := rest }) hp hrem,
      finish_eq_exec (s := { s with hostQueue := rest }) hr himage hi]
  · rw [step_wait hnext, blockStep_of_running (s := { s with hostQueue := rest }) hp hrem]

end Sys2Proof.Proofs
end

section
/-! PROOF. Every operation finishes, whatever the host does meanwhile but reset or read the response (10_state.md R24, R31 to
R33): an induction over the host's actions, each of which leaves the operation running and takes from the latency what it
waits. -/

namespace Sys2Proof.Proofs

open Sys2Proof Sys2Proof.Machine Sys2Proof.Safety

/-! ## While the host acts -/

theorem writeExists_of_letsItRun {w : HostWrite} (h : LetsItRun (.write w)) : writeExists w = true := by
  cases w
  case inBuf offset v => exact decide_eq_true (Nat.lt_succ_of_le h)
  all_goals rfl

theorem waits_cons (a : HostAction) (acts : List HostAction) : waits (a :: acts) = waits [a] + waits acts := by
  simp only [waits, List.count_cons, List.count_nil]
  omega

theorem afterWrites_cons (r : RequestFile) (a : HostAction) (acts : List HostAction) :
    afterWrites r (a :: acts) = afterWrites (afterWrites r [a]) acts := by
  cases a <;> rfl

/-- What the host's actions `acts` make of a state whose operation runs on, `queue` to come after them; `data` is what its
last read returned. -/
def afterActions (s : State) (acts queue : List HostAction) (data : Option Nat) : State :=
  { s with
    req := afterWrites s.req acts
    remaining := s.remaining - waits acts
    hostQueue := queue
    readData := data }

theorem afterActions_nil {s : State} {queue : List HostAction} (h : s.hostQueue = queue) :
    afterActions s [] queue s.readData = s := by
  subst h
  rfl

/-- The actions one after another. -/
theorem afterActions_cons (s : State) (a : HostAction) (acts queue queue' : List HostAction) (data data' : Option Nat) :
    afterActions (afterActions s [a] queue data) acts queue' data' = afterActions s (a :: acts) queue' data' := by
  simp only [afterActions]
  rw [← afterWrites_cons, waits_cons a acts, Nat.sub_sub]

/-- One action that lets the operation run, while the latency is not over: it stores what it writes, and a `wait` counts one
step down. -/
theorem step_of_letsItRun {s : State} {a : HostAction} {queue : List HostAction} (hnext : HostNext s a queue)
    (hp : s.phase = .busy) (ha : LetsItRun a) (hrem : waits [a] < s.remaining) :
    ∃ data, step s = .next (afterActions s [a] queue data) := by
  cases a with
  | write w => exact ⟨s.readData, step_write hnext (writeExists_of_letsItRun ha)⟩
  | start => exact ⟨s.readData, startWhileBusyIsIgnored s queue hnext hp⟩
  | readPhase => exact ⟨_, (phaseAndDoneRead s queue).1 hnext⟩
  | readDone => exact ⟨_, (phaseAndDoneRead s queue).2 hnext⟩
  | wait =>
    refine ⟨s.readData, ?_⟩
    rw [step_wait hnext, blockStep_of_running (s := { s with hostQueue := queue }) hp hrem]
    rfl
  | read f | reset => exact ha.elim

/-- All the host's actions, while the latency is not over. -/
theorem runSteps_acts {acts queue : List HostAction} {s : State} (hq : s.hostQueue = acts ++ queue) (hp : s.phase = .busy)
    (hacts : ∀ a ∈ acts, LetsItRun a) (hrem : waits acts < s.remaining) :
    ∃ data, runSteps acts.length s = .next (afterActions s acts queue data) := by
  induction acts generalizing s with
  | nil => exact ⟨s.readData, by rw [afterActions_nil (show s.hostQueue = queue from hq)]; rfl⟩
  | cons a acts ih =>
    rw [waits_cons] at hrem
    obtain ⟨data, hstep⟩ := step_of_letsItRun (queue := acts ++ queue) hq hp (hacts a (by simp)) (by omega)
    have hrem' : waits acts < s.remaining - waits [a] := by omega
    obtain ⟨data', hrun⟩ := ih (s := afterActions s [a] (acts ++ queue) data) rfl hp
      (fun b hb => hacts b (List.mem_cons_of_mem a hb)) hrem'
    exact ⟨data', by rw [List.length_cons, runSteps_next _ hstep, hrun, afterActions_cons]⟩

/-! ## While the block acts alone -/

theorem runSteps_alone {s : State} {k : Nat} (hq : s.hostQueue = []) (hp : s.phase = .busy) (hk : k < s.remaining) :
    runSteps k s = .next { s with remaining := s.remaining - k } := by
  induction k generalizing s with
  | zero => rfl
  | succ k ih =>
    have hstep : step s = .next { s with remaining := s.remaining - 1 } := by
      rw [step_of_no_action hq, blockStep_of_running hp (by omega)]
    have hk' : k < s.remaining - 1 := by omega
    rw [runSteps_next k hstep, ih (s := { s with remaining := s.remaining - 1 }) hq hp hk', Nat.sub_sub, Nat.add_comm 1 k]

/-! ## From START to the finish -/

/-- The state after a START of `s` that is taken, `queue` to come. -/
def started (s : State) (queue : List HostAction) : State :=
  { s with
    captured := some s.req
    resp := .invalid
    phase := .busy
    remaining := Config.latency s.req
    hostQueue := queue }

/-- The state `s`'s operation is in after `acts` and `k` steps of the block alone. -/
def runningAfter (s : State) (acts queue : List HostAction) (k : Nat) (data : Option Nat) : State :=
  { afterActions (started s (acts ++ queue)) acts queue data with
    remaining := Config.latency s.req - waits acts - k }

theorem stillRuns_runningAfter (s : State) (acts queue : List HostAction) (k : Nat) (data : Option Nat) :
    StillRuns s (runningAfter s acts queue k data) (afterWrites s.req acts) queue :=
  ⟨rfl, rfl, rfl, rfl, rfl⟩

theorem runSteps_start_acts {s : State} {acts queue : List HostAction} (hq : s.hostQueue = .start :: (acts ++ queue))
    (hp : s.phase = .idle ∨ s.phase = .done) (hmissing : ¬ MissingOperand s.req) (hacts : ∀ a ∈ acts, LetsItRun a)
    (hrem : waits acts < Config.latency s.req) :
    ∃ data, runSteps (1 + acts.length) s = .next (runningAfter s acts queue 0 data) := by
  have hstart : step s = .next (started s (acts ++ queue)) := startCapturesTheRequest s _ hq hp hmissing
  obtain ⟨data, hrun⟩ := runSteps_acts (s := started s (acts ++ queue)) rfl rfl hacts hrem
  exact ⟨data, by rw [Nat.add_comm, runSteps_next _ hstart, hrun]; rfl⟩

/-- The latency's last step, whatever the host wrote meanwhile: the captured request is the one START took, so the response
is the one its instruction gives it. -/
theorem finish_hasFinished {s t : State} (hready : requestReady s.req = true) (ht : t.captured = some s.req) :
    ∃ u, finish t = .next u ∧ HasFinished s u t.req t.hostQueue := by
  obtain ⟨image, i, resp, himage, hi, hresp, hrun⟩ := finish_of_ready hready
  obtain ⟨hfinish, hexec⟩ := hrun t ht
  refine ⟨deliver t resp, by rw [hfinish, hexec], rfl, hresp, ht, rfl, rfl, image, i, himage, hi, ?_⟩
  exact (hrun { s with captured := some s.req } rfl).2

/-- Settles O19: START, then the host's actions, then the block alone; each clause stops this run where it says. -/
theorem everyOperationFinishes : Obligations.EveryOperationFinishes := by
  intro s acts rest hq hp hmissing hacts latency req
  have hready := requestReady_iff.2 hmissing
  have hacting := runSteps_start_acts hq hp hmissing hacts
  have halone : rest = [] → ∀ k, waits acts + k < latency →
      ∃ data, runSteps (1 + acts.length + k) s = .next (runningAfter s acts [] k data) := by
    rintro rfl k hk
    obtain ⟨data, hrun⟩ := hacting (by omega)
    have hk' : k < (runningAfter s acts [] 0 data).remaining := by
      show k < latency - waits acts - 0
      omega
    exact ⟨data, by rw [runSteps_add _ k hrun, runSteps_alone rfl rfl hk']; rfl⟩
  refine ⟨Nat.succ_pos _, fun hw => ?_, fun hrest k hk => ?_, fun hrest k hk1 hk => ?_, fun more hrest hw => ?_⟩
  · obtain ⟨data, hrun⟩ := hacting hw
    exact ⟨_, hrun, stillRuns_runningAfter s acts rest 0 data⟩
  · obtain ⟨data, hrun⟩ := halone hrest k hk
    exact ⟨_, hrun, stillRuns_runningAfter s acts [] k data⟩
  · obtain ⟨data, hrun⟩ := halone hrest (k - 1) (by omega)
    obtain ⟨u, hfinish, hdone⟩ := finish_hasFinished (t := runningAfter s acts [] (k - 1) data) hready rfl
    have hover : (runningAfter s acts [] (k - 1) data).remaining ≤ 1 := by
      show latency - waits acts - (k - 1) ≤ 1
      omega
    have hstep : step (runningAfter s acts [] (k - 1) data) = .next u := by
      rw [step_of_no_action rfl, blockStep_of_over rfl hover, hfinish]
    refine ⟨u, ?_, hdone⟩
    rw [show 1 + acts.length + k = 1 + acts.length + (k - 1) + 1 by omega, runSteps_add _ 1 hrun, runSteps_next 0 hstep]
    rfl
  · subst hrest
    obtain ⟨data, hrun⟩ := hacting (by omega)
    obtain ⟨u, hfinish, hdone⟩ := finish_hasFinished (t := runningAfter s acts more 0 data) hready rfl
    have hover : (runningAfter s acts more 0 data).remaining ≤ 1 := by
      show latency - waits acts - 0 ≤ 1
      omega
    have hstep : step (runningAfter s acts (.wait :: more) 0 data) = .next u := by
      rw [step_wait (s := runningAfter s acts (.wait :: more) 0 data) (rest := more) rfl]
      exact (blockStep_of_over (s := runningAfter s acts more 0 data) rfl hover).trans hfinish
    refine ⟨u, ?_, hdone⟩
    rw [runSteps_add _ 1 hrun, runSteps_next 0 hstep]
    rfl

end Sys2Proof.Proofs
end

section
/-! PROOF. The byte spaces of the block: a host write of IN_BUF changes one byte (20_memory.md R60, R66, R67), and of the captured
buffer an operation sees the bytes below IN_LEN alone (20_memory.md R61). -/

namespace Sys2Proof.Proofs

open Sys2Proof Sys2Proof.Machine Sys2Proof.Safety

/-! ## Host writes -/

/-- A write at an offset that IN_BUF does not have (20_memory.md R60). -/
theorem step_write_of_not_exists {s : State} {w : HostWrite} {rest : List HostAction} (h : HostNext s (.write w) rest)
    (hw : writeExists w = false) : step s = .fault .noSuchByte := by
  rw [step_of_hostNext h]
  simp [hostStep, hostWrite, hw]

/-- Settles O11: the offsets up to 4111 are those of IN_BUF, and there a write is `writeByte`. -/
theorem bufferWriteChangesOneByte : Obligations.BufferWriteChangesOneByte := by
  intro s rest a v hnext
  refine ⟨fun ha => ?_, fun ha => ?_⟩
  · have hexists : writeExists (.inBuf a v) = true := decide_eq_true (Nat.lt_succ_of_le ha)
    exact ⟨_, step_write hnext hexists, rfl, fun k => readByte_writeByte s.req.inBuf a.toNat k v⟩
  · exact step_write_of_not_exists hnext (decide_eq_false (Nat.not_lt.2 ha))

/-! ## The bytes at or beyond IN_LEN -/

theorem meaningfulBytes_le (r : RequestFile) : meaningfulBytes r ≤ (r.inLen.getD 0).toNat := by
  unfold meaningfulBytes
  dsimp only
  split <;> omega

theorem meaningfulBytes_with_inBuf (r : RequestFile) (m : Memory) :
    meaningfulBytes { r with inBuf := m } = meaningfulBytes r := rfl

/-- The buffer `m` holds what IN_BUF of `r` holds at every meaningful byte (20_memory.md R61). -/
def AgreesBelowLen (r : RequestFile) (m : Memory) : Prop :=
  ∀ k, k < meaningfulBytes r → readByte m k = readByte r.inBuf k

/-- Below IN_LEN is enough: no other byte is meaningful. -/
theorem agreesBelowLen_of_inLen {r : RequestFile} {m : Memory}
    (h : ∀ l k, r.inLen = some l → k < l.toNat → readByte m k = readByte r.inBuf k) : AgreesBelowLen r m := by
  intro k hk
  cases hl : r.inLen with
  | none => exact absurd hk (by simp [meaningfulBytes, hl])
  | some l =>
    have hle : meaningfulBytes r ≤ l.toNat := by simpa [hl] using meaningfulBytes_le r
    exact h l k hl (lt_of_lt_of_le hk hle)

theorem operandsOf_of_agrees {r : RequestFile} {m : Memory} (h : AgreesBelowLen r m) :
    operandsOf { r with inBuf := m } = operandsOf r := by
  have hinput : bufferBytes m 0 (meaningfulBytes r) = bufferBytes r.inBuf 0 (meaningfulBytes r) :=
    bufferBytes_congr fun k _ hk => h k (by omega)
  simp only [operandsOf, Operands.mk.injEq, and_true, true_and]
  exact hinput

theorem fieldWritten_of_agrees {r : RequestFile} {m : Memory} (h : AgreesBelowLen r m) (f : ReqField) :
    fieldWritten { r with inBuf := m } f = fieldWritten r f := by
  cases f
  case inBuf =>
    simp only [fieldWritten, meaningfulBytes_with_inBuf]
    exact bytesWritten_congr fun k _ hk => h k (by omega)
  case inByte0 =>
    simp only [fieldWritten, meaningfulBytes_with_inBuf]
    by_cases hshort : meaningfulBytes r < Config.minClassifyBytes
    · simp [hshort]
    · have h0 : readByte m 0 = readByte r.inBuf 0 := h 0 (lt_of_lt_of_le (by decide) (Nat.not_lt.1 hshort))
      simp [h0, hshort]
  all_goals rfl

theorem fieldsWritten_of_agrees {r : RequestFile} {m : Memory} (h : AgreesBelowLen r m) (fields : List ReqField) :
    fieldsWritten { r with inBuf := m } fields = fieldsWritten r fields := by
  simp only [fieldsWritten, funext (fieldWritten_of_agrees h)]

/-- Every instruction is a run of an operation on the operands and the written fields, and neither changes. -/
theorem exec_of_agrees {i : Instr} {s t : State} {r : RequestFile} {m : Memory} (hr : s.captured = some r)
    (h : AgreesBelowLen r m) (hexec : exec i s = .next t) :
    exec i { s with captured := some { r with inBuf := m } } = .next { t with captured := some { r with inBuf := m } } := by
  obtain ⟨op, hop⟩ := exec_complete i
  rw [hop] at hexec
  obtain ⟨r', hr', hw, rfl⟩ := complete_next hexec
  obtain rfl : r = r' := Option.some.inj (hr.symm.trans hr')
  rw [hop, complete_eq rfl (by rwa [fieldsWritten_of_agrees h]), operandsOf_of_agrees h]
  rfl

/-- Settles O26: an operation ends in a delivery, which touches no request register, and a host write touches these alone. -/
theorem bytesBeyondInLenDoNotMatter : Obligations.BytesBeyondInLenDoNotMatter := by
  refine ⟨fun i s t r m hr hm hexec => ?_, fun i s t hexec => ?_, fun s t rest w hnext hstep => ?_⟩
  · exact exec_of_agrees hr (agreesBelowLen_of_inLen hm) hexec
  · obtain ⟨r, resp, -, -, rfl⟩ := exec_next hexec
    exact ⟨rfl, rfl⟩
  · rw [step_of_hostNext hnext] at hstep
    obtain ⟨-, rfl⟩ := hostWrite_next hstep
    rfl

end Sys2Proof.Proofs
end

section
/-! PROOF. The bytes of a memory request, field by field (20_memory.md R62, R63; 30_encoding.md R86 to R90, R98, R99), and what
MWR_DECODE finds in them (42_memory_rw.md R167). -/

namespace Sys2Proof.Proofs

open Sys2Proof Sys2Proof.Machine Sys2Proof.Safety

/-! ## A captured buffer, and a delivered one -/

theorem operandsOf_of_holdsInput {s : State} {r : RequestFile} {bytes : List Byte} (h : HoldsInput s r bytes) :
    (operandsOf r).inLen = bytes.length ∧ (operandsOf r).input = bytes := by
  have hlt : bytes.length < 2 ^ 13 := lt_of_le_of_lt h.bound (by decide)
  have hlen : (BitVec.ofNat 13 bytes.length).toNat = bytes.length := by
    rw [BitVec.toNat_ofNat, Nat.mod_eq_of_lt hlt]
  have hmeaning : meaningfulBytes r = bytes.length := by
    rw [meaningfulBytes_of h.len (by rw [hlen]; exact h.bound), hlen]
  refine ⟨by simp only [operandsOf, h.len, Option.getD_some, hlen], ?_⟩
  simp only [operandsOf, hmeaning]
  exact bufferBytes_eq fun k hk => by rw [Nat.zero_add]; exact h.bytes k hk

theorem inBuf_written_of_holdsInput {s : State} {r : RequestFile} {bytes : List Byte} (h : HoldsInput s r bytes) :
    fieldWritten r .inBuf = true := by
  refine (bytesWritten_iff _ _ _).2 fun k _ hk => ?_
  have hlen : meaningfulBytes r = bytes.length := by
    rw [← (operandsOf_of_holdsInput h).2, operandsOf, length_bufferBytes]
  have hk' : k < bytes.length := by omega
  rw [h.bytes k hk', List.getElem?_eq_getElem hk']
  rfl

/-- A command whose only operand is the buffer runs on the bytes the request holds (10_state.md R23). -/
theorem runCommand_of_holdsInput {i : Instr} {f : List Byte → Response} {s : State} {r : RequestFile} {bytes : List Byte}
    (h : HoldsInput s r bytes) (hi : operandFields i = [.inBuf]) :
    runCommand i (fun o => f o.input) s = .next (deliver s (f bytes)) := by
  obtain ⟨hlen, hinput⟩ := operandsOf_of_holdsInput h
  have hinLen : r.inLen.isSome = true := by rw [h.len]; rfl
  have hw : fieldsWritten r (fieldsRead i) = true := by
    simp [fieldsWritten, fieldsRead, hi, inBuf_written_of_holdsInput h, show fieldWritten r .cmd = true from h.cmd,
      show fieldWritten r .inLen = true from hinLen]
  rw [runCommand, complete_eq h.captured hw, withinBuffer_of_le (by rw [hlen]; exact h.bound), hinput]

/-- A response whose OUT_BUF an operation filled with `out` is delivered with exactly these bytes. -/
theorem delivers_outBytes (s : State) (resp : Response) (out : List Byte) :
    Delivers s (deliver s { resp with outBuf := outBytes out }) resp out :=
  ⟨rfl, readByte_outBytes out⟩

/-! ## Big-endian fields (20_memory.md R62) -/

theorem beNat_append (xs ys : List Byte) : beNat (xs ++ ys) = beNat xs * 256 ^ ys.length + beNat ys := by
  induction ys using List.reverseRecOn with
  | nil => simp [beNat]
  | append_singleton ys y ih =>
    have hsnoc : ∀ zs : List Byte, beNat (zs ++ [y]) = beNat zs * 256 + y.toNat := fun zs => by simp [beNat]
    rw [← List.append_assoc, hsnoc, ih, hsnoc, List.length_append, List.length_singleton]
    ring

theorem beNat_be16 (v : BitVec 16) : beNat (be16 v) = v.toNat := by
  have hv := v.isLt
  simp only [beNat, be16, List.foldl, BitVec.extractLsb'_toNat, Nat.shiftRight_eq_div_pow]
  omega

theorem beNat_be32 (v : BitVec 32) : beNat (be32 v) = v.toNat := by
  have hv := v.isLt
  rw [be32, beNat_append, beNat_be16, beNat_be16]
  simp only [be16, List.length_cons, List.length_nil, BitVec.extractLsb'_toNat, Nat.shiftRight_eq_div_pow]
  omega

/-- The Length field of a header is the low ten bits of bytes 2 and 3 (30_encoding.md R86). -/
theorem beNat_lengthBytes (L : Nat) : beNat (lengthBytes L) = L % 1024 := by
  rw [lengthBytes, beNat_be16]
  exact (BitVec.toNat_append 0#6 (BitVec.ofNat 10 L)).trans (by simp)

/-! ## Byte counts and byte enables (30_encoding.md R98, R99) -/

theorem lengthValue_dwords {n : Nat} (h : 1 ≤ n ∧ n ≤ 4096) : lengthValue (dwords n % 1024) = dwords n := by
  unfold lengthValue dwords Config.maxPayloadDw
  split <;> omega

/-- A byte of two nibbles, as byte 7 holds the enables (30_encoding.md R88). -/
theorem extractLsb'_enables (l f : BitVec 4) : (l ++ f).extractLsb' 0 4 = f ∧ (l ++ f).extractLsb' 4 4 = l := by
  revert l f
  decide

theorem maskCount_lastEnables {n : Nat} (h : 4 < n) : maskCount (lastEnables n) = some (n - 4 * (dwords n - 1)) := by
  unfold lastEnables
  rw [if_neg (Nat.not_le.2 h)]
  unfold dwords
  split_ifs with h1 h2 h3
  · rw [show n - 4 * ((n + 3) / 4 - 1) = 1 by omega]; rfl
  · rw [show n - 4 * ((n + 3) / 4 - 1) = 2 by omega]; rfl
  · rw [show n - 4 * ((n + 3) / 4 - 1) = 3 by omega]; rfl
  · rw [show n - 4 * ((n + 3) / 4 - 1) = 4 by omega]; rfl

/-- The byte enables of a transfer give back its byte count (42_memory_rw.md R161). -/
theorem beToCount_enables {n : Nat} (h : 1 ≤ n) : beToCount (dwords n) (firstEnables n) (lastEnables n) = .ok n := by
  rcases Nat.lt_or_ge 4 n with hlong | hshort
  · have hL : dwords n ≠ 1 := by unfold dwords; omega
    have hfirst : firstEnables n = 0b1111 := by
      simp [firstEnables, show n ≠ 1 by omega, show n ≠ 2 by omega, show n ≠ 3 by omega]
    have hsum : 4 * (dwords n - 1) + (n - 4 * (dwords n - 1)) = n := by unfold dwords; omega
    simp only [beToCount, hL, hfirst, maskCount_lastEnables hlong, defined, if_false]
    exact congrArg Except.ok hsum
  · interval_cases n <;> rfl

/-! ## The fields of a memory request -/

section MemoryTlp

variable {b32 b64 : Byte} {n : Nat} {id : BitVec 16} {tag : Byte} {a : BitVec 64} {rest : List Byte}

theorem byteAt_zero_memoryTlp : byteAt (memoryTlp b32 b64 n id tag a ++ rest) 0 = if needs64 a then b64 else b32 := rfl

theorem byteAt_tag_memoryTlp : byteAt (memoryTlp b32 b64 n id tag a ++ rest) 6 = tag := rfl

theorem rawLength_memoryTlp : rawLength (memoryTlp b32 b64 n id tag a ++ rest) = dwords n % 1024 := by
  show beNat (lengthBytes (dwords n)) % 1024 = dwords n % 1024
  rw [beNat_lengthBytes, Nat.mod_mod]

theorem field16_id_memoryTlp : field16 (memoryTlp b32 b64 n id tag a ++ rest) 4 = id := by
  show BitVec.ofNat 16 (beNat (be16 id)) = id
  rw [beNat_be16, BitVec.ofNat_toNat, BitVec.setWidth_eq]

theorem firstBeOf_memoryTlp : firstBeOf (memoryTlp b32 b64 n id tag a ++ rest) = firstEnables n :=
  (extractLsb'_enables (lastEnables n) (firstEnables n)).1

theorem lastBeOf_memoryTlp : lastBeOf (memoryTlp b32 b64 n id tag a ++ rest) = lastEnables n :=
  (extractLsb'_enables (lastEnables n) (firstEnables n)).2

theorem length_memoryTlp : (memoryTlp b32 b64 n id tag a).length = if needs64 a then 16 else 12 := by
  cases h : needs64 a <;> simp [memoryTlp, h, lengthBytes, be64, be32, be16]

/-- The last byte of the header is the lowest of the address (30_encoding.md R89, R90). -/
theorem byteAt_last_memoryTlp :
    (byteAt (memoryTlp b32 b64 n id tag a ++ rest) (if needs64 a then 15 else 11)).toNat = a.toNat % 256 := by
  cases h : needs64 a with
  | true =>
    have hbyte : byteAt (memoryTlp b32 b64 n id tag a ++ rest) 15 =
        ((a.extractLsb' 0 32).extractLsb' 0 16).extractLsb' 0 8 := by
      rw [memoryTlp, h]; rfl
    simp only [if_true, hbyte, BitVec.extractLsb'_toNat, Nat.shiftRight_zero]
    omega
  | false =>
    have hbyte : byteAt (memoryTlp b32 b64 n id tag a ++ rest) 11 =
        ((a.setWidth 32).extractLsb' 0 16).extractLsb' 0 8 := by
      rw [memoryTlp, h]; rfl
    simp only [Bool.false_eq_true, if_false, hbyte, BitVec.extractLsb'_toNat, BitVec.toNat_setWidth, Nat.shiftRight_zero]
    omega

/-- Byte 2 holds the two high bits of the Length field (30_encoding.md R86). -/
theorem byteAt_length_memoryTlp : (byteAt (memoryTlp b32 b64 n id tag a ++ rest) 2).toNat < 4 := by
  have hL := beNat_lengthBytes (dwords n)
  show ((0#6 ++ BitVec.ofNat 10 (dwords n)).extractLsb' 8 8).toNat < 4
  rw [lengthBytes, beNat_be16] at hL
  rw [BitVec.extractLsb'_toNat, hL, Nat.shiftRight_eq_div_pow]
  omega

/-- The must-be-zero bits are those of DW0, and the two that alignment clears in the address (30_encoding.md R90, R96). -/
theorem mbzClear_memoryTlp {kind : Kind} (hkind : variantMbz kind = [(if needs64 a then 15 else 11, 0x03)])
    (ha : a.toNat % 4 = 0) : mbzClear kind (memoryTlp b32 b64 n id tag a ++ rest) = true := by
  have hlow : ∀ b : Byte, b.toNat < 4 → b &&& 0xFC = 0 := by decide
  have haligned : ∀ b : Byte, b.toNat % 4 = 0 → b &&& 0x03 = 0 := by decide
  have hbyte1 : byteAt (memoryTlp b32 b64 n id tag a ++ rest) 1 &&& 0xFF = 0 := by
    show 0x00#8 &&& 0xFF#8 = 0#8
    rfl
  have hbyte2 := hlow (byteAt (memoryTlp b32 b64 n id tag a ++ rest) 2) byteAt_length_memoryTlp
  have hlast := haligned (byteAt (memoryTlp b32 b64 n id tag a ++ rest) (if needs64 a then 15 else 11))
    (by rw [byteAt_last_memoryTlp]; omega)
  simp only [mbzClear, mbzMasks, hkind, List.cons_append, List.nil_append, List.all_cons, List.all_nil, hbyte1, hbyte2, hlast]
  rfl

section Addresses

variable (h32 : (fmtOf b32).getLsbD 0 = false) (h64 : (fmtOf b64).getLsbD 0 = true)
include h32 h64

/-- Bit 0 of Fmt says whether the address has 64 bits (30_encoding.md R81). -/
theorem fourDwFlag_memoryTlp : fourDwFlag (memoryTlp b32 b64 n id tag a ++ rest) = needs64 a := by
  rw [fourDwFlag, byteAt_zero_memoryTlp]
  cases needs64 a
  · exact h32
  · exact h64

theorem headerBytes_memoryTlp : headerBytes (memoryTlp b32 b64 n id tag a ++ rest) = if needs64 a then 16 else 12 := by
  show (if fourDwFlag _ = true then 16 else 12) = _
  rw [fourDwFlag_memoryTlp h32 h64]

theorem headerBytes_eq_length : headerBytes (memoryTlp b32 b64 n id tag a ++ rest) = (memoryTlp b32 b64 n id tag a).length :=
  (headerBytes_memoryTlp h32 h64).trans length_memoryTlp.symm

/-- A decoder of the request's kind finds the whole header (45_validation.md R230, R231). -/
theorem decodePrologue_memoryTlp {accepts : Kind → Bool} {kind : Kind} (hkind : accepts kind = true) :
    decodePrologue accepts kind (memoryTlp b32 b64 n id tag a ++ rest) = .ok () := by
  have hlen : 12 ≤ (memoryTlp b32 b64 n id tag a).length := by rw [length_memoryTlp]; split <;> omega
  refine decodePrologue_ok.2 ⟨?_, hkind, ?_⟩
  · rw [List.length_append]; omega
  · rw [headerBytes_eq_length h32 h64, List.length_append]; omega

/-- What follows the header is the payload (45_validation.md R233). -/
theorem checkPayload_memoryTlp : checkPayload (memoryTlp b32 b64 n id tag a ++ rest)
    (headerBytes (memoryTlp b32 b64 n id tag a ++ rest)) rest.length = .ok () := by
  rw [checkPayload_ok, headerBytes_eq_length h32 h64, List.length_append]
  omega

theorem addrHigh_memoryTlp : addrHigh (memoryTlp b32 b64 n id tag a ++ rest) = a.toNat / 2 ^ 32 := by
  rw [addrHigh, headerBytes_memoryTlp h32 h64]
  cases h : needs64 a with
  | true =>
    have hmem : memRead (memoryTlp b32 b64 n id tag a ++ rest) 8 4 = beNat (be32 (a.extractLsb' 32 32)) := by
      rw [memoryTlp, h]; rfl
    rw [if_neg (by decide), hmem, beNat_be32, BitVec.extractLsb'_toNat, Nat.shiftRight_eq_div_pow]
    have := a.isLt
    omega
  | false =>
    have : a.toNat < 2 ^ 32 := Nat.not_le.1 (of_decide_eq_false h)
    simp only [Bool.false_eq_true, if_false, if_true]
    omega

theorem addrLow_memoryTlp : addrLow (memoryTlp b32 b64 n id tag a ++ rest) = a.toNat % 2 ^ 32 := by
  rw [addrLow, headerBytes_memoryTlp h32 h64]
  cases h : needs64 a with
  | true =>
    have hmem : memRead (memoryTlp b32 b64 n id tag a ++ rest) 12 4 = beNat (be32 (a.extractLsb' 0 32)) := by
      rw [memoryTlp, h]; rfl
    rw [if_neg (by decide), hmem, beNat_be32, BitVec.extractLsb'_toNat, Nat.shiftRight_zero]
  | false =>
    have hmem : memRead (memoryTlp b32 b64 n id tag a ++ rest) 8 4 = beNat (be32 (a.setWidth 32)) := by
      rw [memoryTlp, h]; rfl
    rw [if_pos (by decide), hmem, beNat_be32, BitVec.toNat_setWidth]

/-- A request of a legal transfer passes the checks that both memory decoders make, with its byte count
(42_memory_rw.md R166, R167). -/
theorem memoryChecks_memoryTlp {kind : Kind} (hkind : variantMbz kind = [(if needs64 a then 15 else 11, 0x03)])
    (hlegal : LegalTransfer n a) : memoryChecks kind (memoryTlp b32 b64 n id tag a ++ rest) = .ok n := by
  obtain ⟨hpos, hmax, halign⟩ := hlegal
  have haddress : (headerBytes (memoryTlp b32 b64 n id tag a ++ rest) != 16 ||
      addrHigh (memoryTlp b32 b64 n id tag a ++ rest) != 0) = true := by
    rw [headerBytes_memoryTlp h32 h64, addrHigh_memoryTlp h32 h64]
    cases h : needs64 a with
    | true =>
      have hhigh : a.toNat / 2 ^ 32 ≠ 0 := (Nat.div_pos (of_decide_eq_true h) (by decide)).ne'
      simpa using hhigh
    | false => rfl
  rw [memoryChecks, checkMbz, mbzClear_memoryTlp hkind halign, rawLength_memoryTlp, lengthValue_dwords ⟨hpos, hmax⟩,
    firstBeOf_memoryTlp, lastBeOf_memoryTlp, beToCount_enables hpos, haddress]
  rfl

/-- The fields both memory decoders write are those the request was built of (30_encoding.md R103). -/
theorem memoryDecoded_memoryTlp (k32 k64 : Kind) : succeed (memoryDecoded (if needs64 a then k64 else k32)
      (memoryTlp b32 b64 n id tag a ++ rest) (dwords n) n) = memoryFields k32 k64 n id tag a := by
  have haddr : BitVec.ofNat 64 (a.toNat / 2 ^ 32 * 2 ^ 32 + a.toNat % 2 ^ 32) = a := by
    rw [Nat.div_add_mod', BitVec.ofNat_toNat, BitVec.setWidth_eq]
  simp only [memoryDecoded, field16_id_memoryTlp, byteAt_tag_memoryTlp, addrHigh_memoryTlp h32 h64,
    addrLow_memoryTlp h32 h64, haddr, fourDwFlag_memoryTlp h32 h64, firstBeOf_memoryTlp, lastBeOf_memoryTlp]
  rfl

end Addresses

end MemoryTlp

/-! ## MWR_DECODE -/

section WriteTlp

variable {payload : List Byte} {id : BitVec 16} {tag : Byte} {a : BitVec 64}

/-- The bytes that fill the last dword of a payload (42_memory_rw.md R165). -/
def writePad (n : Nat) : List Byte := List.replicate (4 * dwords n - n) 0x00

theorem writeTlp_eq : writeTlp payload id tag a =
    memoryTlp 0x40 0x60 payload.length id tag a ++ (payload ++ writePad payload.length) :=
  List.append_assoc _ _ _

theorem length_payload_writePad : (payload ++ writePad payload.length).length = 4 * dwords payload.length := by
  simp only [writePad, List.length_append, List.length_replicate, dwords]
  omega

theorem kindOf_writeTlp : kindOf (byteAt (writeTlp payload id tag a) 0) = if needs64 a then .mwr64 else .mwr32 := by
  rw [writeTlp_eq, byteAt_zero_memoryTlp]
  cases needs64 a <;> decide

/-- After the header stands the payload (42_memory_rw.md R167). -/
theorem inBytes_writeTlp :
    inBytes (writeTlp payload id tag a) (headerBytes (writeTlp payload id tag a)) payload.length = payload := by
  rw [writeTlp_eq, headerBytes_eq_length rfl rfl]
  simp [inBytes]

/-- After the payload stands the pad, which is zero (42_memory_rw.md R167). -/
theorem padClear_writeTlp (need : Nat) :
    padClear (writeTlp payload id tag a) (headerBytes (writeTlp payload id tag a)) payload.length need = true := by
  rw [writeTlp_eq, headerBytes_eq_length rfl rfl]
  simp [padClear, inBytes, writePad, ← List.drop_drop]

/-- MWR_DECODE accepts the write request of every legal transfer: each of its checks passes (42_memory_rw.md R167). -/
theorem mwrDecode_writeTlp (hlegal : LegalTransfer payload.length a) : mwrDecode (writeTlp payload id tag a) = .ok
    { memoryDecoded (if needs64 a then .mwr64 else .mwr32) (writeTlp payload id tag a) (dwords payload.length)
        payload.length with
      outLen := some (BitVec.ofNat 13 payload.length)
      outBuf := outBytes payload } := by
  have hprologue : decodePrologue acceptsMwr (if needs64 a then .mwr64 else .mwr32) (writeTlp payload id tag a) = .ok () := by
    rw [writeTlp_eq]
    exact decodePrologue_memoryTlp rfl rfl (by cases needs64 a <;> rfl)
  have hchecks : memoryChecks (if needs64 a then .mwr64 else .mwr32) (writeTlp payload id tag a) = .ok payload.length := by
    rw [writeTlp_eq]
    exact memoryChecks_memoryTlp rfl rfl (by cases needs64 a <;> rfl) hlegal
  have hlength : lengthValue (rawLength (writeTlp payload id tag a)) = dwords payload.length := by
    rw [writeTlp_eq, rawLength_memoryTlp, lengthValue_dwords ⟨hlegal.1, hlegal.2.1⟩]
  have hpayload : checkPayload (writeTlp payload id tag a) (headerBytes (writeTlp payload id tag a))
      (4 * dwords payload.length) = .ok () := by
    rw [writeTlp_eq, ← length_payload_writePad]
    exact checkPayload_memoryTlp rfl rfl
  rw [mwrDecode, kindOf_writeTlp, mwrDecodeAs, hprologue, hchecks]
  simp only [except_ok_bind, hlength, hpayload, padClear_writeTlp, require_true, inBytes_writeTlp]
  rfl

theorem respond_mwrDecode_writeTlp (hlegal : LegalTransfer payload.length a) :
    respond (mwrDecode (writeTlp payload id tag a)) = { writeFields payload id tag a with outBuf := outBytes payload } := by
  have hfields := memoryDecoded_memoryTlp (b32 := 0x40) (b64 := 0x60) (n := payload.length) (id := id) (tag := tag) (a := a)
    (rest := payload ++ writePad payload.length) rfl rfl .mwr32 .mwr64
  rw [mwrDecode_writeTlp hlegal, respond_ok, writeFields, ← hfields, writeTlp_eq]
  rfl

end WriteTlp

/-- Settles O40: the decode of the request's bytes passes every check and ends in the delivery of its fields. -/
theorem mwrDecodeDeliversWriteRequests : Obligations.MwrDecodeDeliversWriteRequests := by
  intro s r payload id tag a hlegal hin
  have hexec : exec .mwrDecode s = .next (deliver s (respond (mwrDecode (writeTlp payload id tag a)))) :=
    runCommand_of_holdsInput (f := fun bytes => respond (mwrDecode bytes)) hin rfl
  rw [respond_mwrDecode_writeTlp hlegal] at hexec
  exact ⟨_, hexec, delivers_outBytes s _ payload⟩

end Sys2Proof.Proofs
end

section
/-! PROOF. The image of an instruction (30_encoding.md R84, R85, R110, R111; log 5): decode and encode are inverse to each
other, the kind table, and what the finish runs of an image (40_header_classify.md R131, 45_validation.md R240). -/

namespace Sys2Proof.Proofs

open Sys2Proof Sys2Proof.Machine Sys2Proof.Safety

/-! ## Command bytes (30_encoding.md R110, R111) -/

theorem decodeCommand_encode_of_row {row : Byte × Instr} (h : row ∈ commandRows) :
    decodeCommand row.1 = row.2 ∧ row.2.wf = true ∧ encode row.2 = [row.1] := by
  revert row
  decide

theorem exists_commandRow_of_code {c : Byte} (h : c ∈ commandCodes) : ∃ i, (c, i) ∈ commandRows := by
  have hcodes : commandCodes = commandRows.map Prod.fst := rfl
  rw [hcodes] at h
  simpa using h

/-- What a CMD byte decodes to is well formed and is encoded as that byte. -/
theorem encode_decodeCommand (c : Byte) : (decodeCommand c).wf = true ∧ encode (decodeCommand c) = [c] := by
  by_cases hcode : c ∈ commandCodes
  · obtain ⟨i, hrow⟩ := exists_commandRow_of_code hcode
    obtain ⟨hdecode, hwf, hencode⟩ := decodeCommand_encode_of_row hrow
    rw [hdecode]
    exact ⟨hwf, hencode⟩
  · rw [decodeCommand_of_not_code hcode]
    exact ⟨by simpa [Instr.wf] using hcode, rfl⟩

/-! ## Bytes 0 of a TLP (30_encoding.md R84, R85) -/

theorem decode_tlpImage (b : Byte) : decode (tlpImage b) = .ok (decodeTlpByte0 b) := rfl

theorem encode_of_tlpRow {row : Byte × Instr} (h : row ∈ tlpRows) : row.2.wf = true ∧ encode row.2 = tlpImage row.1 := by
  revert row
  decide

/-- A byte 0 below 0x80 of no row is UNKNOWN's, and its low seven bits are a well-formed operand (30_encoding.md R85). -/
theorem wf_unknown {b : Byte} (hrow : tlpRows.lookup b = none) (hmsg : ¬ b &&& 0xF8 = 0x30) (hmsgD : ¬ b &&& 0xF8 = 0x70)
    (hlow : (b.setWidth 7).setWidth 8 = b) : (Instr.unknown (b.setWidth 7)).wf = true := by
  have hexact : exactByte0 = tlpRows.map Prod.fst := rfl
  have hnot : b ∉ exactByte0 := by
    rw [hexact, List.mem_map]
    rintro ⟨row, hmem, rfl⟩
    exact bne_iff_ne.1 (List.lookup_eq_none_iff.1 hrow row hmem) rfl
  have hmessage : isMessageByte0 b = false :=
    Bool.or_eq_false_iff.2 ⟨beq_eq_false_iff_ne.2 hmsg, beq_eq_false_iff_ne.2 hmsgD⟩
  simp [Instr.wf, hlow, hnot, hmessage]

/-- The fixed bits of a row with free bits, in front of the free bits, are the byte (30_encoding.md R84). -/
theorem fixed_append_free (b : Byte) :
    (b &&& 0xF8 = 0x30 → 0b00110#5 ++ b.setWidth 3 = b) ∧ (b &&& 0xF8 = 0x70 → 0b01110#5 ++ b.setWidth 3 = b) ∧
    (b &&& 0xF0 = 0x80 → 0b1000#4 ++ b.setWidth 4 = b) ∧ (b &&& 0xF0 = 0x90 → 0b1001#4 ++ b.setWidth 4 = b) ∧
    (b &&& 0xE0 = 0xA0 → 0b101#3 ++ b.setWidth 5 = b) ∧ (b &&& 0xC0 = 0xC0 → 0b11#2 ++ b.setWidth 6 = b) := by
  revert b
  decide

/-- A byte 0 whose Fmt is at most 3 is below 0x80, and its low seven bits give it back. -/
theorem zero_append_low (b : Byte) :
    ¬ b &&& 0xF0 = 0x80 → ¬ b &&& 0xF0 = 0x90 → ¬ b &&& 0xE0 = 0xA0 → ¬ b &&& 0xC0 = 0xC0 →
    0b0#1 ++ b.setWidth 7 = b ∧ (b.setWidth 7).setWidth 8 = b := by
  revert b
  decide

/-- What a byte 0 decodes to is well formed and is encoded as that byte behind DECODE_ANY's code. -/
theorem encode_decodeTlpByte0 (b : Byte) : (decodeTlpByte0 b).wf = true ∧ encode (decodeTlpByte0 b) = tlpImage b := by
  obtain ⟨hmsg, hmsgD, hlprfx, heprfx, hfmt5, hfmt67⟩ := fixed_append_free b
  unfold decodeTlpByte0
  split
  · rename_i i hi
    obtain ⟨l₁, l₂, hl, -⟩ := List.lookup_eq_some_iff.1 hi
    exact encode_of_tlpRow (row := (b, i)) (by simp [hl])
  · rename_i hnone
    split_ifs with h1 h2 h3 h4 h5 h6
    · exact ⟨rfl, congrArg tlpImage (hmsg h1)⟩
    · exact ⟨rfl, congrArg tlpImage (hmsgD h2)⟩
    · exact ⟨rfl, congrArg tlpImage (hlprfx h3)⟩
    · exact ⟨rfl, congrArg tlpImage (heprfx h4)⟩
    · exact ⟨rfl, congrArg tlpImage (hfmt5 h5)⟩
    · exact ⟨rfl, congrArg tlpImage (hfmt67 h6)⟩
    · obtain ⟨happend, hlow⟩ := zero_append_low b h3 h4 h5 h6
      exact ⟨wf_unknown hnone h1 h2 hlow, congrArg tlpImage happend⟩

/-! ## Decode and encode -/

/-- Settles O1, constructor by constructor: a row with all its bits fixed by evaluation, ILLEGAL_CMD because its CMD is no
command's code, and a row with free bits at each of their values. -/
theorem decodeOfEncodeIsIdentity : Obligations.DecodeOfEncodeIsIdentity := by
  intro i hwf
  cases i
  case illegalCmd cmd =>
    have hcode : cmd ∉ commandCodes := by simpa [Instr.wf] using hwf
    exact congrArg Except.ok (decodeCommand_of_not_code hcode)
  case msg routing => revert routing; decide
  case msgD routing => revert routing; decide
  case lprfx subtype => revert subtype; decide
  case eprfx subtype => revert subtype; decide
  case reservedFmt5 low => revert low; decide
  case reservedFmt67 low => revert low; decide
  case unknown low => revert low; decide
  all_goals rfl

/-- Settles O2, along the three shapes of image the decoder accepts. -/
theorem encodeOfDecodeIsIdentity : Obligations.EncodeOfDecodeIsIdentity := by
  intro image i h
  match image, h with
  | [cmd], h =>
    cases h
    exact encode_decodeCommand cmd
  | [cmd, b0], h =>
    by_cases hany : cmd = decodeAnyCode
    · subst hany
      cases h
      exact encode_decodeTlpByte0 b0
    · simp [decode, hany] at h

/-- Settles O3, word by word. -/
theorem tableWordsDecode : Obligations.TableWordsDecode :=
  ⟨rfl, rfl, rfl, rfl, rfl, rfl, rfl, rfl, rfl, rfl⟩

/-- Settles O4, at each of the 256 values of byte 0. -/
theorem kindTableOfByteZero : Obligations.KindTableOfByteZero := by
  unfold Obligations.KindTableOfByteZero
  decide

/-! ## What the finish runs -/

/-- The image of a request whose command is not DECODE_ANY is its CMD byte (log 5). -/
theorem requestImage_of_command {r : RequestFile} {c : Byte} (hc : r.cmd = some c) (hany : c ≠ 0x40) :
    requestImage r = .ok [c] := by
  simp [requestImage, hc, show c ≠ decodeAnyCode from hany]

theorem step_of_finishing {s : State} (h : Finishing s) : step s = finish s := by
  rw [step_of_no_action h.queue, blockStep_of_over h.phase h.remaining]

/-- Settles O17: the finish runs what the CMD byte decodes to, which is the row of the code table. -/
theorem finishSelectsTheCommand : Obligations.FinishSelectsTheCommand := by
  intro s r c hfinish hr hc hany
  have hstep : step s = exec (decodeCommand c) s := by
    rw [step_of_finishing hfinish, finish_eq_exec hr (requestImage_of_command hc hany) rfl]
  rw [hstep]
  by_cases hcode : c ∈ commandCodes
  · simp only [commandCodes, List.mem_cons, List.not_mem_nil, hany, or_false] at hcode
    rcases hcode with rfl | rfl | rfl | rfl | rfl | rfl | rfl | rfl | rfl | rfl | rfl | rfl | rfl <;> rfl
  · rw [decodeCommand_of_not_code hcode]
    simp only [commandCodes, List.mem_cons, List.not_mem_nil, or_false, not_or] at hcode
    simp only [hcode, if_false]

/-! ## The rows that no variant accepts -/

/-- A TLP_BYTE0 row is run as the DECODE_ANY of a TLP of its KIND (40_header_classify.md R133; log 5). -/
theorem exec_of_rowKind {i : Instr} {kind : Kind} (h : rowKind i = some kind) (s : State) : exec i s = runTlp i kind s := by
  cases i <;> cases h <;> rfl

theorem operandFields_of_rowKind {i : Instr} {kind : Kind} (h : rowKind i = some kind) : operandFields i = [.inBuf] := by
  cases i <;> cases h <;> rfl

/-- A kind of no decoder is refused by all four (40_header_classify.md R131, 45_validation.md R241). -/
theorem dispatchKind_of_no_variant {kind : Kind} {tlp : List Byte} (hkind : variantOf kind = none) (hlen : 4 ≤ tlp.length) :
    dispatchKind kind tlp = verdict ⟨unsupported, unsupported, unsupported, unsupported⟩ := by
  simp [dispatchKind, hkind, Config.minClassifyBytes, Nat.not_lt.2 hlen]

/-- Settles O59: a row of a kind without a variant delivers the verdict on four refusals. -/
theorem rowsWithoutVariantAnswerUnsupported : Obligations.RowsWithoutVariantAnswerUnsupported := by
  intro s r bytes x y z u v i hin hlen hi
  have hrow : ∃ kind, rowKind i = some kind ∧ variantOf kind = none := by
    simp only [List.mem_cons, List.not_mem_nil, or_false] at hi
    rcases hi with rfl | rfl | rfl | rfl | rfl | rfl | rfl | rfl | rfl | rfl | rfl | rfl | rfl | rfl | rfl | rfl | rfl | rfl |
      rfl | rfl | rfl <;> exact ⟨_, rfl, rfl⟩
  obtain ⟨kind, hkind, hvariant⟩ := hrow
  have hexec : exec i s = .next (deliver s (dispatchKind kind bytes)) :=
    (exec_of_rowKind hkind s).trans (runCommand_of_holdsInput (f := dispatchKind kind) hin (operandFields_of_rowKind hkind))
  rw [dispatchKind_of_no_variant hvariant hlen] at hexec
  exact ⟨_, hexec, rfl, readByte_outBytes []⟩

end Sys2Proof.Proofs
end

section
/-! PROOF. Fields of a header as byte sequences (20_memory.md R62, R65; 30_encoding.md R86, R96), and what
MRD_DECODE, CPL_DECODE and CFG_DECODE find in a TLP of their variant: every check passes, and the fields delivered are those the
TLP was built of (30_encoding.md R103). -/

namespace Sys2Proof.Proofs

open Sys2Proof Sys2Proof.Machine Sys2Proof.Safety

/-! ## Fields of a header -/

theorem toNat_append_eq_add {m n : Nat} (x : BitVec m) (y : BitVec n) : (x ++ y).toNat = x.toNat * 2 ^ n + y.toNat := by
  rw [BitVec.toNat_append, ← Nat.shiftLeft_add_eq_or_of_lt y.isLt, Nat.shiftLeft_eq]

theorem ofNat_beNat_be16 (v : BitVec 16) : BitVec.ofNat 16 (beNat (be16 v)) = v := by
  rw [beNat_be16, BitVec.ofNat_toNat, BitVec.setWidth_eq]

/-- The must-be-zero bits of a header are those of DW0 and those of its variant (30_encoding.md R96). -/
theorem mbzClear_iff {kind : Kind} {tlp : List Byte} : mbzClear kind tlp = true ↔
    byteAt tlp 1 = 0 ∧ (byteAt tlp 2).toNat < 4 ∧ ∀ row ∈ variantMbz kind, byteAt tlp row.1 &&& row.2 = 0 := by
  have hall : ∀ b : Byte, (b &&& 0xFF == 0) = true ↔ b = 0 := by decide
  have hlow : ∀ b : Byte, (b &&& 0xFC == 0) = true ↔ b.toNat < 4 := by decide
  simp only [mbzClear, mbzMasks, List.cons_append, List.nil_append, List.all_cons, Bool.and_eq_true, List.all_eq_true,
    hall, hlow, beq_iff_eq]

/-- Byte 2 of a header holds the two high bits of the Length field (30_encoding.md R86). -/
theorem toNat_lengthByte_lt (L : Nat) : ((0#6 ++ BitVec.ofNat 10 L).extractLsb' 8 8).toNat < 4 := by
  have hlt : (0#6 ++ BitVec.ofNat 10 L).toNat < 1024 := by
    have := (BitVec.ofNat 10 L).isLt
    rw [toNat_append_eq_add, BitVec.toNat_zero]
    omega
  rw [BitVec.extractLsb'_toNat, Nat.shiftRight_eq_div_pow]
  omega

/-- A decoder goes on with a TLP of a kind it accepts that has its header of 12 bytes (45_validation.md R230, R231). -/
theorem decodePrologue_of_shortHeader {accepts : Kind → Bool} {kind : Kind} {tlp : List Byte} (hkind : accepts kind = true)
    (hhdr : headerBytes tlp = 12) (hlen : 12 ≤ tlp.length) : decodePrologue accepts kind tlp = .ok () :=
  decodePrologue_ok.2 ⟨by omega, hkind, by omega⟩

/-! ## MRD_DECODE -/

section ReadTlp

variable {n : Nat} {id : BitVec 16} {tag : Byte} {a : BitVec 64}

theorem readTlp_eq : readTlp n id tag a = memoryTlp 0x00 0x20 n id tag a ++ [] := (List.append_nil _).symm

theorem kindOf_readTlp : kindOf (byteAt (readTlp n id tag a) 0) = if needs64 a then .mrd64 else .mrd32 := by
  rw [readTlp_eq, byteAt_zero_memoryTlp]
  cases needs64 a <;> decide

/-- MRD_DECODE accepts the read request of every legal transfer: each of its checks passes (42_memory_rw.md R166). -/
theorem mrdDecode_readTlp (hlegal : LegalTransfer n a) : mrdDecode (readTlp n id tag a) = .ok
    (memoryDecoded (if needs64 a then .mrd64 else .mrd32) (readTlp n id tag a) (dwords n) n) := by
  have hprologue : decodePrologue acceptsMrd (if needs64 a then .mrd64 else .mrd32) (readTlp n id tag a) = .ok () := by
    rw [readTlp_eq]
    exact decodePrologue_memoryTlp rfl rfl (by cases needs64 a <;> rfl)
  have hchecks : memoryChecks (if needs64 a then .mrd64 else .mrd32) (readTlp n id tag a) = .ok n := by
    rw [readTlp_eq]
    exact memoryChecks_memoryTlp rfl rfl (by cases needs64 a <;> rfl) hlegal
  have hlength : lengthValue (rawLength (readTlp n id tag a)) = dwords n := by
    rw [readTlp_eq, rawLength_memoryTlp, lengthValue_dwords ⟨hlegal.1, hlegal.2.1⟩]
  have hpayload : checkPayload (readTlp n id tag a) (headerBytes (readTlp n id tag a)) 0 = .ok () := by
    rw [readTlp_eq]
    exact checkPayload_memoryTlp (rest := []) rfl rfl
  rw [mrdDecode, kindOf_readTlp, mrdDecodeAs, hprologue, hchecks]
  simp only [except_ok_bind, hlength, hpayload]
  rfl

theorem respond_mrdDecode_readTlp (hlegal : LegalTransfer n a) :
    respond (mrdDecode (readTlp n id tag a)) = readFields n id tag a := by
  rw [mrdDecode_readTlp hlegal, respond_ok, readTlp_eq]
  exact memoryDecoded_memoryTlp rfl rfl .mrd32 .mrd64

end ReadTlp

/-- Settles O39: the decode of the request's bytes passes every check and ends in the delivery of its fields. -/
theorem mrdDecodeDeliversReadRequests : Obligations.MrdDecodeDeliversReadRequests := by
  intro s r n id tag a hlegal hin
  have hexec : exec .mrdDecode s = .next (deliver s (respond (mrdDecode (readTlp n id tag a)))) :=
    runCommand_of_holdsInput (f := fun bytes => respond (mrdDecode bytes)) hin rfl
  rw [respond_mrdDecode_readTlp hlegal] at hexec
  exact ⟨_, hexec, rfl, readByte_outBytes []⟩

/-! ## CPL_DECODE -/

/-- The header of a completion with byte 0 `b0` and `L` payload dwords (30_encoding.md R91). -/
def completionTlp (b0 : Byte) (L : Nat) (cid : BitVec 16) (st : BitVec 3) (bc : Nat) (id : BitVec 16) (tag : Byte)
    (la : BitVec 7) : List Byte :=
  [b0, 0x00] ++ lengthBytes L ++ be16 cid ++ be16 (st ++ 0#1 ++ BitVec.ofNat 12 bc) ++ be16 id ++ [tag, 0#1 ++ la]

/-- A legal completion status, as `StatusOK` tests it (43_completion.md R190). -/
theorem statusOk_iff {st : BitVec 3} : statusOk st = true ↔ LegalStatus st := by
  simp only [statusOk, LegalStatus, Bool.or_eq_true, beq_iff_eq, or_assoc]

theorem countConsistent_iff {L bc : Nat} {la : BitVec 7} :
    countConsistent L bc la = true ↔ L ≤ (la.toNat % 4 + bc + 3) / 4 :=
  decide_eq_true_iff

section CompletionTlp

variable {b0 : Byte} {L : Nat} {cid : BitVec 16} {st : BitVec 3} {bc : Nat} {id : BitVec 16} {tag : Byte} {la : BitVec 7}
  {rest payload : List Byte}

theorem cplTlp_eq : cplTlp cid st bc id tag la = completionTlp 0x0A 0 cid st bc id tag la ++ [] := (List.append_nil _).symm

theorem cplDTlp_eq : cplDTlp cid st bc id tag la payload =
    completionTlp 0x4A (payload.length / 4) cid st bc id tag la ++ payload := rfl

theorem length_completionTlp : (completionTlp b0 L cid st bc id tag la).length = 12 := rfl

theorem byteAt_zero_completionTlp : byteAt (completionTlp b0 L cid st bc id tag la ++ rest) 0 = b0 := rfl

theorem byteAt_tag_completionTlp : byteAt (completionTlp b0 L cid st bc id tag la ++ rest) 10 = tag := rfl

theorem rawLength_completionTlp : rawLength (completionTlp b0 L cid st bc id tag la ++ rest) = L % 1024 := by
  show beNat (lengthBytes L) % 1024 = L % 1024
  rw [beNat_lengthBytes, Nat.mod_mod]

theorem field16_cid_completionTlp : field16 (completionTlp b0 L cid st bc id tag la ++ rest) 4 = cid :=
  ofNat_beNat_be16 cid

theorem field16_id_completionTlp : field16 (completionTlp b0 L cid st bc id tag la ++ rest) 8 = id :=
  ofNat_beNat_be16 id

/-- Byte 6 holds the status, BCM = 0 and the four high bits of the Byte Count (30_encoding.md R91). -/
theorem byteAt_status_completionTlp : byteAt (completionTlp b0 L cid st bc id tag la ++ rest) 6 =
    st ++ 0#1 ++ (BitVec.ofNat 12 bc).extractLsb' 8 4 := by
  show (st ++ 0#1 ++ BitVec.ofNat 12 bc).extractLsb' 8 8 = _
  apply BitVec.eq_of_toNat_eq
  have := (BitVec.ofNat 12 bc).isLt
  have := st.isLt
  simp only [BitVec.extractLsb'_toNat, toNat_append_eq_add, Nat.shiftRight_eq_div_pow, BitVec.toNat_zero]
  omega

theorem cplStatusOf_completionTlp : cplStatusOf (completionTlp b0 L cid st bc id tag la ++ rest) = st := by
  have hfield : ∀ (x : BitVec 3) (y : BitVec 4), (x ++ 0#1 ++ y).extractLsb' 5 3 = x := by decide
  rw [cplStatusOf, byteAt_status_completionTlp, hfield]

theorem lowerAddrOf_completionTlp : lowerAddrOf (completionTlp b0 L cid st bc id tag la ++ rest) = la :=
  BitVec.extractLsb'_append_eq_right

/-- The Byte Count field is the low twelve bits of bytes 6 and 7 (30_encoding.md R91, R92). -/
theorem byteCountOf_completionTlp (hpos : 1 ≤ bc) (hmax : bc ≤ 4096) :
    byteCountOf (completionTlp b0 L cid st bc id tag la ++ rest) = bc := by
  have hfield : memRead (completionTlp b0 L cid st bc id tag la ++ rest) 6 2 % 4096 = bc % 4096 := by
    show beNat (be16 (st ++ 0#1 ++ BitVec.ofNat 12 bc)) % 4096 = bc % 4096
    rw [beNat_be16, toNat_append_eq_add, BitVec.toNat_ofNat]
    omega
  rw [byteCountOf, hfield, byteCountValue, Config.maxPayloadBytes]
  split_ifs <;> omega

theorem checkMbz_completionTlp {kind : Kind} (hkind : variantMbz kind = [(6, 0x10), (11, 0x80)]) :
    checkMbz kind (completionTlp b0 L cid st bc id tag la ++ rest) = .ok () := by
  have hbcm : ∀ (x : BitVec 3) (y : BitVec 4), (x ++ 0#1 ++ y) &&& 0x10#8 = 0#8 := by decide
  have hreserved : ∀ x : BitVec 7, (0#1 ++ x) &&& 0x80#8 = 0#8 := by decide
  refine checkMbz_ok.2 (mbzClear_iff.2 ⟨rfl, toNat_lengthByte_lt L, ?_⟩)
  simp only [hkind, List.forall_mem_cons, byteAt_status_completionTlp]
  exact ⟨hbcm st _, hreserved la, List.forall_mem_nil _⟩

theorem inBytes_completionTlp : inBytes (completionTlp b0 L cid st bc id tag la ++ rest) 12 rest.length = rest := by
  rw [← length_completionTlp (b0 := b0) (L := L) (cid := cid) (st := st) (bc := bc) (id := id) (tag := tag) (la := la)]
  simp [inBytes]

theorem checkPayload_completionTlp {need : Nat} (hrest : rest.length = need) :
    checkPayload (completionTlp b0 L cid st bc id tag la ++ rest) 12 need = .ok () := by
  rw [checkPayload_ok, List.length_append, length_completionTlp]
  omega

theorem decodePrologue_completionTlp {kind : Kind} (hkind : acceptsCpl kind = true)
    (hfmt : (fmtOf b0).getLsbD 0 = false) :
    decodePrologue acceptsCpl kind (completionTlp b0 L cid st bc id tag la ++ rest) = .ok () := by
  refine decodePrologue_of_shortHeader hkind ?_ ?_
  · rw [headerBytes, byteAt_zero_completionTlp, hfmt]
    rfl
  · rw [List.length_append, length_completionTlp]
    omega

/-- CPL_DECODE accepts every completion without data (43_completion.md R193). -/
theorem cplDecode_cplTlp (hst : LegalStatus st) : cplDecode (cplTlp cid st bc id tag la) =
    .ok (completionDecoded .cpl (cplTlp cid st bc id tag la) 0) := by
  have hkind : kindOf (byteAt (cplTlp cid st bc id tag la) 0) = .cpl := by
    show kindOf 0x0A = .cpl
    decide
  rw [cplDecode, hkind, cplTlp_eq, cplDecodeAs, decodePrologue_completionTlp rfl rfl,
    checkMbz_completionTlp rfl, cplStatusOf_completionTlp, statusOk_iff.2 hst, rawLength_completionTlp,
    show (0 % 1024 == 0) = true from rfl]
  simp only [except_ok_bind, require_true, reduceCtorEq, if_false, checkPayload_completionTlp List.length_nil]
  rfl

/-- CPL_DECODE accepts every completion with data whose Byte Count reaches its last dword (43_completion.md R191, R193). -/
theorem cplDecode_cplDTlp (hst : LegalStatus st) (hpos : 1 ≤ bc) (hmax : bc ≤ 4096) (hdata : LegalCplData bc la payload) :
    cplDecode (cplDTlp cid st bc id tag la payload) =
      .ok (completionDecoded .cplD (cplDTlp cid st bc id tag la payload) (payload.length / 4)) := by
  obtain ⟨hone, hmany, hdword, hreach⟩ := hdata
  have hkind : kindOf (byteAt (cplDTlp cid st bc id tag la payload) 0) = .cplD := by
    show kindOf 0x4A = .cplD
    decide
  have hlength : lengthValue (payload.length / 4 % 1024) = payload.length / 4 := by
    unfold lengthValue Config.maxPayloadDw
    split <;> omega
  have hbytes : payload.length = 4 * (payload.length / 4) := by omega
  rw [cplDecode, hkind, cplDTlp_eq, cplDecodeAs, decodePrologue_completionTlp rfl rfl,
    checkMbz_completionTlp rfl, cplStatusOf_completionTlp, statusOk_iff.2 hst, rawLength_completionTlp,
    hlength]
  simp only [except_ok_bind, require_true, if_true, checkPayload_completionTlp hbytes, byteCountOf_completionTlp hpos hmax,
    lowerAddrOf_completionTlp, countConsistent_iff.2 hreach]
  rfl

/-- The fields CPL_DECODE writes are those the completion was built of (30_encoding.md R103). -/
theorem completionDecoded_completionTlp {kind : Kind} (hpos : 1 ≤ bc) (hmax : bc ≤ 4096) (hrest : 4 * L = rest.length) :
    completionDecoded kind (completionTlp b0 L cid st bc id tag la ++ rest) L = { Response.invalid with
      outLen := some (BitVec.ofNat 13 rest.length)
      outBuf := outBytes rest
      kind := some kind
      cplId := some cid
      cplStatus := some st
      byteCount := some (BitVec.ofNat 13 bc)
      reqId := some id
      tag := some tag
      lowerAddr := some la
      hasData := some (kind == .cplD)
      lengthDw := some (BitVec.ofNat 11 L) } := by
  simp only [completionDecoded, hrest, inBytes_completionTlp, field16_cid_completionTlp, cplStatusOf_completionTlp,
    byteCountOf_completionTlp hpos hmax, field16_id_completionTlp, byteAt_tag_completionTlp, lowerAddrOf_completionTlp]

theorem respond_cplDecode_cplTlp (hst : LegalStatus st) (hpos : 1 ≤ bc) (hmax : bc ≤ 4096) :
    respond (cplDecode (cplTlp cid st bc id tag la)) =
      { cplFields false cid st bc id tag la [] with outBuf := outBytes [] } := by
  rw [cplDecode_cplTlp hst, respond_ok, cplTlp_eq, completionDecoded_completionTlp hpos hmax rfl]
  rfl

theorem respond_cplDecode_cplDTlp (hst : LegalStatus st) (hpos : 1 ≤ bc) (hmax : bc ≤ 4096)
    (hdata : LegalCplData bc la payload) : respond (cplDecode (cplDTlp cid st bc id tag la payload)) =
      { cplFields true cid st bc id tag la payload with outBuf := outBytes payload } := by
  have hbytes : 4 * (payload.length / 4) = payload.length := by
    obtain ⟨-, -, hdword, -⟩ := hdata
    omega
  rw [cplDecode_cplDTlp hst hpos hmax hdata, respond_ok, cplDTlp_eq, completionDecoded_completionTlp hpos hmax hbytes]
  rfl

end CompletionTlp

/-- Settles O45: the decode of a completion's bytes, with and without data, ends in the delivery of its fields. -/
theorem cplDecodeDeliversCompletions : Obligations.CplDecodeDeliversCompletions := by
  intro s r cid id st bc tag la payload hst hpos hmax
  have hexec : ∀ {bytes : List Byte}, HoldsInput s r bytes →
      exec .cplDecode s = .next (deliver s (respond (cplDecode bytes))) := fun hin =>
    runCommand_of_holdsInput (f := fun bytes => respond (cplDecode bytes)) hin rfl
  refine ⟨fun hin => ⟨_, hexec hin, ?_⟩, fun hdata hin => ⟨_, hexec hin, ?_⟩⟩
  · rw [respond_cplDecode_cplTlp hst hpos hmax]
    exact delivers_outBytes s _ []
  · rw [respond_cplDecode_cplDTlp hst hpos hmax hdata]
    exact delivers_outBytes s _ payload

/-! ## CFG_DECODE -/

/-- The header of a configuration request with byte 0 `b0` (30_encoding.md R93, R94, R102). -/
def configTlp (b0 : Byte) (id : BitVec 16) (tag : Byte) (tgt : BitVec 16) (reg : BitVec 10) (be : BitVec 4) : List Byte :=
  [b0, 0x00] ++ lengthBytes 1 ++ be16 id ++ [tag, 0#4 ++ be] ++ be16 tgt ++
    [0#4 ++ reg.extractLsb' 6 4, reg.extractLsb' 0 6 ++ 0#2]

section ConfigTlp

variable {type1 write : Bool} {b0 : Byte} {id : BitVec 16} {tag : Byte} {tgt : BitVec 16} {reg : BitVec 10} {be : BitVec 4}
  {rest payload : List Byte}

theorem cfgTlp_eq : cfgTlp type1 write id tag tgt reg be payload =
    configTlp (cfgByte0 type1 write) id tag tgt reg be ++ payload := rfl

theorem length_configTlp : (configTlp b0 id tag tgt reg be).length = 12 := rfl

theorem byteAt_zero_configTlp : byteAt (configTlp b0 id tag tgt reg be ++ rest) 0 = b0 := rfl

theorem byteAt_tag_configTlp : byteAt (configTlp b0 id tag tgt reg be ++ rest) 6 = tag := rfl

theorem rawLength_configTlp : rawLength (configTlp b0 id tag tgt reg be ++ rest) = 1 := by
  show beNat (lengthBytes 1) % 1024 = 1
  rw [beNat_lengthBytes]

theorem field16_id_configTlp : field16 (configTlp b0 id tag tgt reg be ++ rest) 4 = id := ofNat_beNat_be16 id

theorem field16_tgt_configTlp : field16 (configTlp b0 id tag tgt reg be ++ rest) 8 = tgt := ofNat_beNat_be16 tgt

theorem firstBeOf_configTlp : firstBeOf (configTlp b0 id tag tgt reg be ++ rest) = be :=
  BitVec.extractLsb'_append_eq_right

theorem lastBeOf_configTlp : lastBeOf (configTlp b0 id tag tgt reg be ++ rest) = 0 :=
  BitVec.extractLsb'_append_eq_left

/-- The register index stands in bytes 10 and 11, four bits and six (30_encoding.md R102). -/
theorem regIndexOf_configTlp : regIndexOf (configTlp b0 id tag tgt reg be ++ rest) = reg := by
  show (0#4 ++ reg.extractLsb' 6 4).extractLsb' 0 4 ++ (reg.extractLsb' 0 6 ++ 0#2).extractLsb' 2 6 = reg
  rw [BitVec.extractLsb'_append_eq_right, BitVec.extractLsb'_append_eq_left]
  exact BitVec.extractLsb'_append_extractLsb'

theorem checkMbz_configTlp {kind : Kind} (hkind : variantMbz kind = [(10, 0xF0), (11, 0x03)]) :
    checkMbz kind (configTlp b0 id tag tgt reg be ++ rest) = .ok () := by
  have hhigh : ∀ x : BitVec 4, (0#4 ++ x) &&& 0xF0#8 = 0#8 := by decide
  have hlow : ∀ x : BitVec 6, (x ++ 0#2) &&& 0x03#8 = 0#8 := by decide
  refine checkMbz_ok.2 (mbzClear_iff.2 ⟨rfl, toNat_lengthByte_lt 1, ?_⟩)
  simp only [hkind, List.forall_mem_cons]
  exact ⟨hhigh _, hlow _, List.forall_mem_nil _⟩

theorem inBytes_configTlp : inBytes (configTlp b0 id tag tgt reg be ++ rest) 12 rest.length = rest := by
  rw [← length_configTlp (b0 := b0) (id := id) (tag := tag) (tgt := tgt) (reg := reg) (be := be)]
  simp [inBytes]

theorem checkPayload_configTlp : checkPayload (configTlp b0 id tag tgt reg be ++ rest) 12 rest.length = .ok () := by
  rw [checkPayload_ok, List.length_append, length_configTlp]
  omega

/-- What byte 0 of a configuration request says of it (30_encoding.md R81, R84; 44_config.md R210). -/
theorem cfgByte0_says (type1 write : Bool) : kindOf (cfgByte0 type1 write) = cfgKind type1 write ∧
    (fmtOf (cfgByte0 type1 write)).getLsbD 0 = false ∧ (fmtOf (cfgByte0 type1 write)).getLsbD 1 = write ∧
    (cfgByte0 type1 write).getLsbD 0 = type1 := by
  revert type1 write
  decide

/-- The four kinds of a configuration request are CFG_DECODE's, with one set of must-be-zero bits. -/
theorem cfgKind_accepted (type1 write : Bool) :
    acceptsCfg (cfgKind type1 write) = true ∧ variantMbz (cfgKind type1 write) = [(10, 0xF0), (11, 0x03)] := by
  revert type1 write
  decide

theorem withDataFlag_cfgTlp : withDataFlag (cfgTlp type1 write id tag tgt reg be payload) = write :=
  (cfgByte0_says type1 write).2.2.1

/-- CFG_DECODE accepts every configuration request: each of its checks passes (44_config.md R211). -/
theorem cfgDecode_cfgTlp (hlegal : LegalCfgPayload write payload) : cfgDecode (cfgTlp type1 write id tag tgt reg be payload) =
    .ok (configDecoded (cfgKind type1 write) (cfgTlp type1 write id tag tgt reg be payload) payload.length) := by
  obtain ⟨hkind, hfmt, -, -⟩ := cfgByte0_says type1 write
  obtain ⟨haccepts, hmasks⟩ := cfgKind_accepted type1 write
  have hprologue : decodePrologue acceptsCfg (cfgKind type1 write) (cfgTlp type1 write id tag tgt reg be payload) = .ok () := by
    refine decodePrologue_of_shortHeader haccepts ?_ ?_
    · rw [headerBytes, cfgTlp_eq, byteAt_zero_configTlp, hfmt]
      rfl
    · rw [cfgTlp_eq, List.length_append, length_configTlp]
      omega
  have hmbz : checkMbz (cfgKind type1 write) (cfgTlp type1 write id tag tgt reg be payload) = .ok () :=
    checkMbz_configTlp hmasks
  have hneed : (if withDataFlag (cfgTlp type1 write id tag tgt reg be payload) then 4 else 0) = payload.length := by
    rw [withDataFlag_cfgTlp]
    exact hlegal.symm
  rw [cfgDecode, show kindOf (byteAt (cfgTlp type1 write id tag tgt reg be payload) 0) = cfgKind type1 write from hkind,
    cfgDecodeAs, hprologue, hmbz]
  simp only [except_ok_bind, hneed]
  rw [cfgTlp_eq, rawLength_configTlp, lastBeOf_configTlp, checkPayload_configTlp]
  rfl

/-- The fields CFG_DECODE writes are those the request was built of (30_encoding.md R103). -/
theorem respond_cfgDecode_cfgTlp (hlegal : LegalCfgPayload write payload) :
    respond (cfgDecode (cfgTlp type1 write id tag tgt reg be payload)) =
      { cfgFields type1 write id tag tgt reg be payload with outBuf := outBytes payload } := by
  obtain ⟨-, -, -, htype⟩ := cfgByte0_says type1 write
  rw [cfgDecode_cfgTlp hlegal, respond_ok, configDecoded, withDataFlag_cfgTlp, cfgTlp_eq, byteAt_zero_configTlp, htype,
    inBytes_configTlp, field16_id_configTlp, byteAt_tag_configTlp, firstBeOf_configTlp, field16_tgt_configTlp,
    regIndexOf_configTlp]
  rfl

end ConfigTlp

/-- Settles O50: the decode of the request's bytes passes every check and ends in the delivery of its fields. -/
theorem cfgDecodeDeliversConfigRequests : Obligations.CfgDecodeDeliversConfigRequests := by
  intro s r type1 write id tgt tag reg be payload hlegal hin
  have hexec : exec .cfgDecode s = .next (deliver s (respond (cfgDecode (cfgTlp type1 write id tag tgt reg be payload)))) :=
    runCommand_of_holdsInput (f := fun bytes => respond (cfgDecode bytes)) hin rfl
  rw [respond_cfgDecode_cfgTlp hlegal] at hexec
  exact ⟨_, hexec, delivers_outBytes s _ payload⟩

end Sys2Proof.Proofs
end

section
/-! PROOF. The four decoders accept only the TLPs of their variants (42_memory_rw.md R168; 43_completion.md R194;
44_config.md R212). A big-endian field gives its bytes, so the fields a decoder finds, written out again, are the buffer. -/

namespace Sys2Proof.Proofs

open Sys2Proof Sys2Proof.Machine Sys2Proof.Safety

/-! ## Byte sequences and their numbers (20_memory.md R62) -/

theorem beNat_eq_ofDigits (bytes : List Byte) : beNat bytes = Nat.ofDigits 256 (bytes.reverse.map BitVec.toNat) := by
  simp only [beNat, Nat.ofDigits_eq_foldr, List.foldr_map, List.foldr_reverse, Nat.cast_id]
  congr 1
  funext acc b
  omega

theorem toNat_lt_of_mem_map {bytes : List Byte} {d : Nat} (h : d ∈ bytes.map BitVec.toNat) : d < 256 := by
  obtain ⟨b, -, rfl⟩ := List.mem_map.1 h
  exact b.isLt

theorem beNat_lt (bytes : List Byte) : beNat bytes < 256 ^ bytes.length := by
  have h := Nat.ofDigits_lt_base_pow_length (b := 256) (l := bytes.reverse.map BitVec.toNat) (by decide)
    fun d hd => toNat_lt_of_mem_map hd
  simpa [beNat_eq_ofDigits] using h

/-- Byte sequences of one length with one big-endian value are the same. -/
theorem eq_of_beNat_eq {xs ys : List Byte} (hlen : xs.length = ys.length) (h : beNat xs = beNat ys) : xs = ys := by
  rw [beNat_eq_ofDigits, beNat_eq_ofDigits] at h
  have hdigits := Nat.ofDigits_inj_of_len_eq (b := 256) (by decide) (by simpa using hlen)
    (fun d hd => toNat_lt_of_mem_map hd) (fun d hd => toNat_lt_of_mem_map hd) h
  exact List.reverse_injective (List.map_injective_iff.2 (fun _ _ => BitVec.eq_of_toNat_eq) hdigits)

theorem inBytes_append (tlp : List Byte) (a m n : Nat) : inBytes tlp a m ++ inBytes tlp (a + m) n = inBytes tlp a (m + n) := by
  simp only [inBytes, List.take_add, List.drop_drop]

theorem length_inBytes {tlp : List Byte} {a n : Nat} (h : a + n ≤ tlp.length) : (inBytes tlp a n).length = n := by
  simp only [inBytes, List.length_take, List.length_drop]
  omega

/-- One byte of a TLP, as the sequence of a field (20_memory.md R65). -/
theorem inBytes_one {tlp : List Byte} {a : Nat} (h : a < tlp.length) : inBytes tlp a 1 = [byteAt tlp a] := by
  rw [inBytes, List.drop_eq_getElem_cons h, List.take_succ_cons, List.take_zero, byteAt, List.getD_eq_getElem _ _ h]

theorem inBytes_two {tlp : List Byte} {a : Nat} (h : a + 2 ≤ tlp.length) :
    inBytes tlp a 2 = [byteAt tlp a, byteAt tlp (a + 1)] := by
  rw [← inBytes_append tlp a 1 1, inBytes_one (by omega), inBytes_one (by omega), List.singleton_append]

/-- A header and what follows it are the TLP. -/
theorem inBytes_append_drop (tlp : List Byte) (n : Nat) : inBytes tlp 0 n ++ tlp.drop n = tlp := by
  simp [inBytes]

/-- A header is DW0, a 16-bit field, two bytes and what stands from byte 8 on (30_encoding.md R86, R88, R91, R93). -/
theorem inBytes_header (tlp : List Byte) {n : Nat} (h : 8 ≤ n) : inBytes tlp 0 n =
    inBytes tlp 0 2 ++ inBytes tlp 2 2 ++ inBytes tlp 4 2 ++ inBytes tlp 6 2 ++ inBytes tlp 8 (n - 8) := by
  rw [inBytes_append tlp 0 2 2, inBytes_append tlp 0 4 2, inBytes_append tlp 0 6 2, inBytes_append tlp 0 8,
    show 6 + 2 + (n - 8) = n by omega]

theorem memRead_lt (tlp : List Byte) (a n : Nat) (h : a + n ≤ tlp.length) : memRead tlp a n < 256 ^ n := by
  have := beNat_lt (inBytes tlp a n)
  rwa [length_inBytes h] at this

theorem memRead_succ {tlp : List Byte} {a n : Nat} (h : a + n < tlp.length) :
    memRead tlp a (n + 1) = memRead tlp a n * 256 + (byteAt tlp (a + n)).toNat := by
  rw [memRead, ← inBytes_append, beNat_append, inBytes_one h]
  simp [beNat, memRead]

/-- A 16-bit field is found where its number is read. -/
theorem be16_eq_inBytes {v : BitVec 16} {tlp : List Byte} {a : Nat} (h : a + 2 ≤ tlp.length)
    (hv : v.toNat = memRead tlp a 2) : be16 v = inBytes tlp a 2 :=
  eq_of_beNat_eq (length_inBytes h).symm ((beNat_be16 v).trans hv)

/-- A 32-bit field is found where its number is read. -/
theorem be32_eq_inBytes {v : BitVec 32} {tlp : List Byte} {a : Nat} (h : a + 4 ≤ tlp.length)
    (hv : v.toNat = memRead tlp a 4) : be32 v = inBytes tlp a 4 :=
  eq_of_beNat_eq (length_inBytes h).symm ((beNat_be32 v).trans hv)

theorem be16_field16 {tlp : List Byte} {a : Nat} (h : a + 2 ≤ tlp.length) : be16 (field16 tlp a) = inBytes tlp a 2 :=
  be16_eq_inBytes h ((BitVec.toNat_ofNat _ _).trans (Nat.mod_eq_of_lt (memRead_lt tlp a 2 h)))

/-! ## The fields every variant has -/

/-- Where the must-be-zero bits of DW0 are clear, bytes 2 and 3 are those of the Length (30_encoding.md R86, R87). -/
theorem lengthBytes_eq_inBytes {tlp : List Byte} {L : Nat} (hlen : 4 ≤ tlp.length) (hmbz : (byteAt tlp 2).toNat < 4)
    (hL : L % 1024 = rawLength tlp) : lengthBytes L = inBytes tlp 2 2 := by
  refine eq_of_beNat_eq (length_inBytes (n := 2) (by omega)).symm ?_
  have hhigh : memRead tlp 2 2 = (memRead tlp 2 0 * 256 + (byteAt tlp 2).toNat) * 256 + (byteAt tlp 3).toNat := by
    rw [memRead_succ (by omega), memRead_succ (by omega)]
  have hzero : memRead tlp 2 0 = 0 := rfl
  have hlow := (byteAt tlp 3).isLt
  rw [beNat_lengthBytes, hL, rawLength]
  exact Nat.mod_eq_of_lt (by omega)

theorem lengthValue_mod (tlp : List Byte) : lengthValue (rawLength tlp) % 1024 = rawLength tlp := by
  have hlt : rawLength tlp < 1024 := Nat.mod_lt _ (by decide)
  unfold lengthValue Config.maxPayloadDw
  split <;> omega

/-- What a decoder that succeeded on the captured buffer answered: an error's STATUS is never OK (60_exceptions.md R254). -/
theorem exists_ok_of_succeeds {i : Instr} {f : List Byte → Except Raise Response} {s t : State} {r : RequestFile}
    {bytes : List Byte} (hin : HoldsInput s r bytes) (hfields : operandFields i = [.inBuf])
    (hexec : exec i s = runCommand i (fun o => respond (f o.input)) s) (hyields : Yields OutputFits (f bytes))
    (h : Succeeds (exec i s) t) : ∃ resp, f bytes = .ok resp := by
  obtain ⟨hnext, hstatus⟩ := h
  rw [hexec, runCommand_of_holdsInput (f := fun bytes => respond (f bytes)) hin hfields] at hnext
  cases hnext
  cases hf : f bytes with
  | ok resp => exact ⟨resp, rfl⟩
  | error e =>
    rw [hf] at hyields hstatus
    exact absurd (Option.some.inj hstatus) (isError_iff.1 hyields).1

/-! ## Memory requests: byte counts and byte enables (42_memory_rw.md R161) -/

theorem defined_eq_ok {x : Option Nat} {st : Status} {f : ErrField} {n : Nat} : defined x st f = .ok n ↔ x = some n := by
  cases x <;> simp [defined]

/-- A low-contiguous mask, by the number of bytes it enables (30_encoding.md R99). -/
theorem maskCount_eq_some {m : BitVec 4} {k : Nat} (h : maskCount m = some k) :
    m = 0b0001 ∧ k = 1 ∨ m = 0b0011 ∧ k = 2 ∨ m = 0b0111 ∧ k = 3 ∨ m = 0b1111 ∧ k = 4 := by
  unfold maskCount at h
  split_ifs at h <;> simp_all

/-- The last enables of a transfer of more than one dword, by the bytes of its last dword (30_encoding.md R99). -/
theorem lastEnables_of_maskCount {L k : Nat} {m : BitVec 4} (hL : 2 ≤ L) (h : maskCount m = some k) :
    m = lastEnables (4 * (L - 1) + k) := by
  have hmod : ∀ j, (4 * (L - 1) + j) % 4 = j % 4 := fun j => by omega
  unfold lastEnables
  rcases maskCount_eq_some h with ⟨rfl, rfl⟩ | ⟨rfl, rfl⟩ | ⟨rfl, rfl⟩ | ⟨rfl, rfl⟩ <;>
    rw [if_neg (by omega), hmod] <;> rfl

/-- Enables that give a byte count are the enables of a transfer of that many bytes (42_memory_rw.md R161). -/
theorem enables_of_beToCount {L n : Nat} {fbe lbe : BitVec 4} (hL : 1 ≤ L) (h : beToCount L fbe lbe = .ok n) :
    1 ≤ n ∧ dwords n = L ∧ fbe = firstEnables n ∧ lbe = lastEnables n := by
  unfold beToCount at h
  split_ifs at h with hone
  · simp only [except_bind_eq_ok, require_eq_ok, defined_eq_ok] at h
    obtain ⟨-, -, k, hk, -, hlbe, hn⟩ := h
    cases hn
    rcases maskCount_eq_some hk with ⟨rfl, rfl⟩ | ⟨rfl, rfl⟩ | ⟨rfl, rfl⟩ | ⟨rfl, rfl⟩ <;>
      exact ⟨by decide, hone.symm, rfl, beq_iff_eq.1 hlbe⟩
  · simp only [except_bind_eq_ok, require_eq_ok, defined_eq_ok] at h
    obtain ⟨-, hfbe, k, hk, hn⟩ := h
    cases hn
    have hrange : 1 ≤ k ∧ k ≤ 4 := by have := maskCount_eq_some hk; omega
    refine ⟨by omega, by unfold dwords; omega, ?_, lastEnables_of_maskCount (by omega) hk⟩
    rw [beq_iff_eq.1 hfbe, firstEnables, if_neg (by omega), if_neg (by omega), if_neg (by omega)]

/-! ## Memory requests: the address (42_memory_rw.md R163, R166) -/

/-- The address both memory decoders find in a header (42_memory_rw.md R166). -/
def addrOf (tlp : List Byte) : BitVec 64 := BitVec.ofNat 64 (addrHigh tlp * 2 ^ 32 + addrLow tlp)

theorem addr_memoryDecoded (kind : Kind) (tlp : List Byte) (L n : Nat) :
    (memoryDecoded kind tlp L n).addr = some (addrOf tlp) := rfl

theorem headerBytes_eq (tlp : List Byte) : headerBytes tlp = if fourDwFlag tlp then 16 else 12 := rfl

section Address

variable {tlp : List Byte} (hhdr : headerBytes tlp ≤ tlp.length)
include hhdr

/-- In a 3DW header the address is the dword at byte 8 (30_encoding.md R89). -/
theorem toNat_addrOf_of_short (h : fourDwFlag tlp = false) : (addrOf tlp).toNat = memRead tlp 8 4 := by
  have hsize : headerBytes tlp = 12 := by rw [headerBytes_eq, h]; rfl
  have hlt := memRead_lt tlp 8 4 (by omega)
  rw [addrOf, addrHigh, addrLow, if_pos hsize, if_pos hsize, BitVec.toNat_ofNat]
  omega

/-- In a 4DW header the address is the two dwords from byte 8 on (30_encoding.md R90). -/
theorem toNat_addrOf_of_long (h : fourDwFlag tlp = true) :
    (addrOf tlp).toNat = memRead tlp 8 4 * 2 ^ 32 + memRead tlp 12 4 := by
  have hsize : headerBytes tlp = 16 := by rw [headerBytes_eq, h]; rfl
  have hhigh := memRead_lt tlp 8 4 (by omega)
  have hlow := memRead_lt tlp 12 4 (by omega)
  rw [addrOf, addrHigh, addrLow, if_neg (by omega), if_neg (by omega), BitVec.toNat_ofNat]
  omega

/-- The low byte of the address is the last of the header (30_encoding.md R89, R90). -/
theorem toNat_addrOf_mod : (addrOf tlp).toNat % 256 = (byteAt tlp (headerBytes tlp - 1)).toNat := by
  cases h : fourDwFlag tlp with
  | false =>
    have hsize : headerBytes tlp = 12 := by rw [headerBytes_eq, h]; rfl
    have hlow := (byteAt tlp (8 + 3)).isLt
    rw [toNat_addrOf_of_short hhdr h, memRead_succ (by omega), hsize, show 12 - 1 = 8 + 3 from rfl]
    omega
  | true =>
    have hsize : headerBytes tlp = 16 := by rw [headerBytes_eq, h]; rfl
    have hlow := (byteAt tlp (12 + 3)).isLt
    rw [toNat_addrOf_of_long hhdr h, memRead_succ (a := 12) (by omega), hsize, show 16 - 1 = 12 + 3 from rfl]
    omega

/-- A 4DW header holds an address that needs it, and a 3DW header none that does (42_memory_rw.md R163, R166). -/
theorem needs64_addrOf (haddress : (headerBytes tlp != 16 || addrHigh tlp != 0) = true) :
    needs64 (addrOf tlp) = fourDwFlag tlp := by
  cases h : fourDwFlag tlp with
  | false =>
    have hsize : headerBytes tlp = 12 := by rw [headerBytes_eq, h]; rfl
    have hlt := memRead_lt tlp 8 4 (by omega)
    rw [needs64, toNat_addrOf_of_short hhdr h]
    exact decide_eq_false (by omega)
  | true =>
    have hsize : headerBytes tlp = 16 := by rw [headerBytes_eq, h]; rfl
    have hhigh : memRead tlp 8 4 ≠ 0 := by simpa [hsize, addrHigh] using haddress
    rw [needs64, toNat_addrOf_of_long hhdr h]
    exact decide_eq_true (by omega)

/-- The address field, from byte 8 to the end of the header, is the address (30_encoding.md R89, R90). -/
theorem addrBytes_eq_inBytes : (if fourDwFlag tlp then be64 (addrOf tlp) else be32 ((addrOf tlp).setWidth 32)) =
    inBytes tlp 8 (headerBytes tlp - 8) := by
  cases h : fourDwFlag tlp with
  | false =>
    have hsize : headerBytes tlp = 12 := by rw [headerBytes_eq, h]; rfl
    have hlt := memRead_lt tlp 8 4 (by omega)
    have hword : ((addrOf tlp).setWidth 32).toNat = memRead tlp 8 4 := by
      rw [BitVec.toNat_setWidth, toNat_addrOf_of_short hhdr h]
      omega
    rw [hsize, if_neg (by decide)]
    exact be32_eq_inBytes (by omega) hword
  | true =>
    have hsize : headerBytes tlp = 16 := by rw [headerBytes_eq, h]; rfl
    have hhigh := memRead_lt tlp 8 4 (by omega)
    have hlow := memRead_lt tlp 12 4 (by omega)
    have hwordHigh : ((addrOf tlp).extractLsb' 32 32).toNat = memRead tlp 8 4 := by
      rw [BitVec.extractLsb'_toNat, toNat_addrOf_of_long hhdr h, Nat.shiftRight_eq_div_pow]
      omega
    have hwordLow : ((addrOf tlp).extractLsb' 0 32).toNat = memRead tlp 12 4 := by
      rw [BitVec.extractLsb'_toNat, toNat_addrOf_of_long hhdr h, Nat.shiftRight_zero]
      omega
    rw [hsize, if_pos rfl, be64, be32_eq_inBytes (a := 8) (by omega) hwordHigh, be32_eq_inBytes (a := 12) (by omega) hwordLow]
    exact inBytes_append tlp 8 4 4

end Address

/-! ## Memory requests: the header -/

/-- The header of a memory request that passes the decoders' common checks is the one its own fields make
(42_memory_rw.md R166, R167). -/
theorem header_eq_memoryTlp {b32 b64 : Byte} {kind : Kind} {tlp : List Byte} {n : Nat}
    (hbyte0 : byteAt tlp 0 = if fourDwFlag tlp then b64 else b32)
    (hmasks : variantMbz kind = [(headerBytes tlp - 1, 0x03)]) (hhdr : headerBytes tlp ≤ tlp.length)
    (hchecks : memoryChecks kind tlp = .ok n) :
    LegalTransfer n (addrOf tlp) ∧ dwords n = lengthValue (rawLength tlp) ∧
      inBytes tlp 0 (headerBytes tlp) = memoryTlp b32 b64 n (field16 tlp 4) (byteAt tlp 6) (addrOf tlp) := by
  simp only [memoryChecks, except_bind_eq_ok, checkMbz_ok, require_eq_ok] at hchecks
  obtain ⟨-, hmbz, m, hcount, -, haddress, hm⟩ := hchecks
  cases hm
  obtain ⟨hpos, hmax⟩ := lengthValue_rawLength_bounds tlp
  obtain ⟨hone, hdwords, hfirst, hlast⟩ := enables_of_beToCount hpos hcount
  obtain ⟨hbyte1, hbyte2, hvariant⟩ := mbzClear_iff.1 hmbz
  have hsize : 12 ≤ headerBytes tlp := by rw [headerBytes_eq]; split <;> omega
  have haligned : (addrOf tlp).toNat % 4 = 0 := by
    have hlow : ∀ b : Byte, b &&& 0x03 = 0 → b.toNat % 4 = 0 := by decide
    have hzero : (byteAt tlp (headerBytes tlp - 1)).toNat % 4 = 0 :=
      hlow _ (hvariant (headerBytes tlp - 1, 0x03) (by rw [hmasks]; exact List.mem_singleton_self _))
    have hbyte := toNat_addrOf_mod hhdr
    omega
  have henables : lastEnables n ++ firstEnables n = byteAt tlp 7 := by
    rw [← hfirst, ← hlast]
    exact BitVec.extractLsb'_append_extractLsb'
  refine ⟨⟨hone, by unfold dwords at hdwords; omega, haligned⟩, hdwords, ?_⟩
  rw [inBytes_header tlp (by omega), memoryTlp, needs64_addrOf hhdr haddress, addrBytes_eq_inBytes hhdr, ← hbyte0, henables,
    lengthBytes_eq_inBytes (by omega) hbyte2 (by rw [hdwords, lengthValue_mod]), be16_field16 (by omega),
    inBytes_two (a := 0) (by omega), inBytes_two (a := 6) (by omega), show byteAt tlp (0 + 1) = 0 from hbyte1]

/-! ## MRD_DECODE -/

/-- A byte 0 of MRD_DECODE's kinds is the one of its address size (30_encoding.md R84; 40_header_classify.md R131). -/
theorem byteZero_of_acceptsMrd (b : Byte) (h : acceptsMrd (kindOf b) = true) :
    (b = if (fmtOf b).getLsbD 0 then 0x20 else 0x00) ∧
      variantMbz (kindOf b) = [((if (fmtOf b).getLsbD 0 then 16 else 12) - 1, 0x03)] := by
  revert b
  decide

/-- What MRD_DECODE accepts is a read request, and nothing follows it (42_memory_rw.md R166). -/
theorem readTlp_of_mrdDecode {tlp : List Byte} {resp : Response} (h : mrdDecode tlp = .ok resp) :
    ∃ n id tag a, LegalTransfer n a ∧ tlp = readTlp n id tag a := by
  simp only [mrdDecode, mrdDecodeAs, except_bind_eq_ok, decodePrologue_ok, checkPayload_ok] at h
  obtain ⟨-, ⟨-, hkind, hhdr⟩, n, hchecks, -, hpayload, -⟩ := h
  obtain ⟨hbyte0, hmasks⟩ := byteZero_of_acceptsMrd _ hkind
  obtain ⟨hlegal, -, hheader⟩ := header_eq_memoryTlp hbyte0 hmasks hhdr hchecks
  have hrest : tlp.drop (headerBytes tlp) = [] := List.drop_eq_nil_of_le (by omega)
  refine ⟨n, field16 tlp 4, byteAt tlp 6, addrOf tlp, hlegal, ?_⟩
  rw [readTlp_eq, ← hheader, ← hrest, inBytes_append_drop]

/-- Settles O41: the fields MRD_DECODE finds, written out as a request, are the buffer. -/
theorem mrdDecodeAcceptsOnlyReadRequests : Obligations.MrdDecodeAcceptsOnlyReadRequests := by
  intro s t r bytes hin hsucceeds
  obtain ⟨resp, hresp⟩ := exists_ok_of_succeeds (f := mrdDecode) hin rfl rfl (yields_mrdDecodeAs _ bytes) hsucceeds
  exact readTlp_of_mrdDecode hresp

/-! ## MWR_DECODE -/

/-- A byte 0 of MWR_DECODE's kinds is the one of its address size (30_encoding.md R84; 40_header_classify.md R131). -/
theorem byteZero_of_acceptsMwr (b : Byte) (h : acceptsMwr (kindOf b) = true) :
    (b = if (fmtOf b).getLsbD 0 then 0x60 else 0x40) ∧
      variantMbz (kindOf b) = [((if (fmtOf b).getLsbD 0 then 16 else 12) - 1, 0x03)] := by
  revert b
  decide

/-- The disabled bytes that are all zero are the pad (42_memory_rw.md R167). -/
theorem inBytes_eq_writePad {tlp : List Byte} {hdr n : Nat} (hclear : padClear tlp hdr n (4 * dwords n) = true)
    (hlen : hdr + n + (4 * dwords n - n) ≤ tlp.length) : inBytes tlp (hdr + n) (4 * dwords n - n) = writePad n := by
  refine List.eq_replicate_iff.2 ⟨length_inBytes hlen, fun b hb => ?_⟩
  exact beq_iff_eq.1 (List.all_eq_true.1 hclear b hb)

/-- What MWR_DECODE accepts is a write request: after the header stand the enabled bytes, and zeros up to the last dword
(42_memory_rw.md R167). -/
theorem writeTlp_of_mwrDecode {tlp : List Byte} {resp : Response} (h : mwrDecode tlp = .ok resp) :
    ∃ payload id tag a, LegalTransfer payload.length a ∧ tlp = writeTlp payload id tag a := by
  simp only [mwrDecode, mwrDecodeAs, except_bind_eq_ok, decodePrologue_ok, checkPayload_ok, require_eq_ok] at h
  obtain ⟨-, ⟨-, hkind, hhdr⟩, n, hchecks, -, hpayload, -, hclear, -⟩ := h
  obtain ⟨hbyte0, hmasks⟩ := byteZero_of_acceptsMwr _ hkind
  obtain ⟨hlegal, hdwords, hheader⟩ := header_eq_memoryTlp hbyte0 hmasks hhdr hchecks
  rw [← hdwords] at hpayload hclear
  have hfits : n ≤ 4 * dwords n := by unfold dwords; omega
  have hlen : (inBytes tlp (headerBytes tlp) n).length = n := length_inBytes (by omega)
  refine ⟨inBytes tlp (headerBytes tlp) n, field16 tlp 4, byteAt tlp 6, addrOf tlp, by rwa [hlen], ?_⟩
  have hrest : tlp.drop (headerBytes tlp) = inBytes tlp (headerBytes tlp) n ++ writePad n := by
    rw [← inBytes_eq_writePad hclear (by omega), inBytes_append, inBytes, List.take_of_length_le]
    rw [List.length_drop]
    omega
  rw [writeTlp_eq, hlen, ← hheader, ← hrest, inBytes_append_drop]

/-- Settles O42: the fields MWR_DECODE finds, written out as a request with its payload and its pad, are the buffer. -/
theorem mwrDecodeAcceptsOnlyWriteRequests : Obligations.MwrDecodeAcceptsOnlyWriteRequests := by
  intro s t r bytes hin hsucceeds
  obtain ⟨resp, hresp⟩ := exists_ok_of_succeeds (f := mwrDecode) hin rfl rfl (yields_mwrDecodeAs _ bytes) hsucceeds
  exact writeTlp_of_mwrDecode hresp

/-! ## CPL_DECODE -/

/-- A byte 0 of CPL_DECODE's kinds is the one of its kind (30_encoding.md R84; 40_header_classify.md R131). -/
theorem byteZero_of_acceptsCpl (b : Byte) (h : acceptsCpl (kindOf b) = true) :
    (b = if kindOf b = .cplD then 0x4A else 0x0A) ∧ (fmtOf b).getLsbD 0 = false ∧
      variantMbz (kindOf b) = [(6, 0x10), (11, 0x80)] := by
  revert b
  decide

theorem byteCountOf_bounds (tlp : List Byte) : 1 ≤ byteCountOf tlp ∧ byteCountOf tlp ≤ 4096 := by
  have hlt : memRead tlp 6 2 % 4096 < 4096 := Nat.mod_lt _ (by decide)
  unfold byteCountOf byteCountValue Config.maxPayloadBytes
  split <;> omega

/-- Bytes 6 and 7 with BCM clear are the status and the Byte Count they hold (30_encoding.md R91, R92). -/
theorem statusBytes_eq_inBytes {tlp : List Byte} (hlen : 8 ≤ tlp.length) (hbcm : byteAt tlp 6 &&& 0x10 = 0) :
    be16 (cplStatusOf tlp ++ 0#1 ++ BitVec.ofNat 12 (byteCountOf tlp)) = inBytes tlp 6 2 := by
  have hbyte : ∀ b : Byte, b &&& 0x10 = 0 → b.toNat = (b.extractLsb' 5 3).toNat * 32 + b.toNat % 16 := by decide
  have hstatus : (byteAt tlp 6).toNat = (cplStatusOf tlp).toNat * 32 + (byteAt tlp 6).toNat % 16 := hbyte _ hbcm
  have hlow := (byteAt tlp (6 + 1)).isLt
  have hword : memRead tlp 6 2 = (byteAt tlp 6).toNat * 256 + (byteAt tlp (6 + 1)).toNat := by
    rw [memRead, inBytes_two (by omega)]
    simp [beNat]
  have hcount : byteCountOf tlp % 4096 = memRead tlp 6 2 % 4096 := by
    unfold byteCountOf byteCountValue Config.maxPayloadBytes
    split <;> omega
  refine be16_eq_inBytes (by omega) ?_
  rw [toNat_append_eq_add, toNat_append_eq_add, BitVec.toNat_ofNat, BitVec.toNat_ofNat]
  omega

/-- The header of a completion that passes the checks of its must-be-zero bits is the one its own fields make
(43_completion.md R193). -/
theorem header_eq_completionTlp {kind : Kind} {tlp : List Byte} {L : Nat} (hlen : 12 ≤ tlp.length)
    (hmasks : variantMbz kind = [(6, 0x10), (11, 0x80)]) (hmbz : mbzClear kind tlp = true) (hL : L % 1024 = rawLength tlp) :
    inBytes tlp 0 12 = completionTlp (byteAt tlp 0) L (field16 tlp 4) (cplStatusOf tlp) (byteCountOf tlp) (field16 tlp 8)
      (byteAt tlp 10) (lowerAddrOf tlp) := by
  obtain ⟨hbyte1, hbyte2, hvariant⟩ := mbzClear_iff.1 hmbz
  rw [hmasks, List.forall_mem_cons, List.forall_mem_singleton] at hvariant
  obtain ⟨hbcm, hreserved⟩ := hvariant
  have hbyte : ∀ b : Byte, b &&& 0x80 = 0 → 0#1 ++ b.extractLsb' 0 7 = b := by decide
  have hlower : 0#1 ++ lowerAddrOf tlp = byteAt tlp 11 := hbyte _ hreserved
  rw [inBytes_header tlp (by decide), ← inBytes_append tlp 8 2 2, completionTlp, lengthBytes_eq_inBytes (by omega) hbyte2 hL,
    be16_field16 (by omega), be16_field16 (by omega), statusBytes_eq_inBytes (by omega) hbcm, hlower,
    inBytes_two (a := 0) (by omega), inBytes_two (a := 8 + 2) (by omega), show byteAt tlp (0 + 1) = 0 from hbyte1]
  simp only [List.append_assoc]

/-- What CPL_DECODE accepts is a completion, with data by its kind (43_completion.md R193). -/
theorem completion_of_cplDecode {tlp : List Byte} {resp : Response} (h : cplDecode tlp = .ok resp) :
    ∃ cid st bc id tag la payload, LegalStatus st ∧ 1 ≤ bc ∧ bc ≤ 4096 ∧
      (tlp = cplTlp cid st bc id tag la ∨ (LegalCplData bc la payload ∧ tlp = cplDTlp cid st bc id tag la payload)) := by
  simp only [cplDecode, cplDecodeAs, except_bind_eq_ok, decodePrologue_ok, checkMbz_ok, require_eq_ok] at h
  obtain ⟨-, ⟨-, hkind, hhdr⟩, -, hmbz, -, hstatus, hrest⟩ := h
  obtain ⟨hbyte0, hfmt, hmasks⟩ := byteZero_of_acceptsCpl _ hkind
  have hsize : headerBytes tlp = 12 := by rw [headerBytes, hfmt]; rfl
  have hsplit := inBytes_append_drop tlp 12
  obtain ⟨hpos, hmax⟩ := byteCountOf_bounds tlp
  refine ⟨field16 tlp 4, cplStatusOf tlp, byteCountOf tlp, field16 tlp 8, byteAt tlp 10, lowerAddrOf tlp, tlp.drop 12,
    statusOk_iff.1 hstatus, hpos, hmax, ?_⟩
  split_ifs at hrest hbyte0 with hdata
  · simp only [except_bind_eq_ok, checkPayload_ok, require_eq_ok] at hrest
    obtain ⟨-, hpayload, -, hcount, -⟩ := hrest
    have hL := lengthValue_rawLength_bounds tlp
    have hlength : (tlp.drop 12).length / 4 = lengthValue (rawLength tlp) := by rw [List.length_drop]; omega
    refine .inr ⟨⟨?_, ?_, ?_, hlength ▸ countConsistent_iff.1 hcount⟩, ?_⟩
    · rw [List.length_drop]; omega
    · rw [List.length_drop]; omega
    · rw [List.length_drop]; omega
    · rw [header_eq_completionTlp (by omega) hmasks hmbz (lengthValue_mod tlp), hbyte0] at hsplit
      rw [cplDTlp_eq, hlength, hsplit]
  · simp only [except_bind_eq_ok, checkPayload_ok, require_eq_ok] at hrest
    obtain ⟨-, hlength, -, hpayload, -⟩ := hrest
    rw [header_eq_completionTlp (L := 0) (by omega) hmasks hmbz (beq_iff_eq.1 hlength).symm, hbyte0,
      List.drop_eq_nil_of_le (by omega)] at hsplit
    exact .inl (by rw [cplTlp_eq, hsplit])

/-- Settles O46: the fields CPL_DECODE finds, written out as a completion, are the buffer. -/
theorem cplDecodeAcceptsOnlyCompletions : Obligations.CplDecodeAcceptsOnlyCompletions := by
  intro s t r bytes hin hsucceeds
  obtain ⟨resp, hresp⟩ := exists_ok_of_succeeds (f := cplDecode) hin rfl rfl (yields_cplDecodeAs _ bytes) hsucceeds
  exact completion_of_cplDecode hresp

/-! ## CFG_DECODE -/

/-- A byte 0 of CFG_DECODE's kinds is the one of its type and direction (30_encoding.md R84; 44_config.md R210). -/
theorem byteZero_of_acceptsCfg (b : Byte) (h : acceptsCfg (kindOf b) = true) :
    b = cfgByte0 (b.getLsbD 0) ((fmtOf b).getLsbD 1) ∧ (fmtOf b).getLsbD 0 = false ∧
      variantMbz (kindOf b) = [(10, 0xF0), (11, 0x03)] := by
  revert b
  decide

/-- Bytes 10 and 11 with their must-be-zero bits clear are the register index they hold (30_encoding.md R102). -/
theorem regIndexBytes_eq {tlp : List Byte} (hhigh : byteAt tlp 10 &&& 0xF0 = 0) (hlow : byteAt tlp 11 &&& 0x03 = 0) :
    0#4 ++ (regIndexOf tlp).extractLsb' 6 4 = byteAt tlp 10 ∧
      (regIndexOf tlp).extractLsb' 0 6 ++ 0#2 = byteAt tlp 11 := by
  have hext : ∀ b : Byte, b &&& 0xF0 = 0 → 0#4 ++ b.extractLsb' 0 4 = b := by decide
  have hreg : ∀ b : Byte, b &&& 0x03 = 0 → b.extractLsb' 2 6 ++ 0#2 = b := by decide
  rw [regIndexOf, BitVec.extractLsb'_append_eq_left, BitVec.extractLsb'_append_eq_right]
  exact ⟨hext _ hhigh, hreg _ hlow⟩

/-- The header of a configuration request that passes CFG_DECODE's checks is the one its own fields make (44_config.md R211). -/
theorem header_eq_configTlp {kind : Kind} {tlp : List Byte} (hlen : 12 ≤ tlp.length)
    (hmasks : variantMbz kind = [(10, 0xF0), (11, 0x03)]) (hmbz : mbzClear kind tlp = true) (hL : rawLength tlp = 1)
    (hlast : lastBeOf tlp = 0) : inBytes tlp 0 12 =
      configTlp (byteAt tlp 0) (field16 tlp 4) (byteAt tlp 6) (field16 tlp 8) (regIndexOf tlp) (firstBeOf tlp) := by
  obtain ⟨hbyte1, hbyte2, hvariant⟩ := mbzClear_iff.1 hmbz
  rw [hmasks, List.forall_mem_cons, List.forall_mem_singleton] at hvariant
  obtain ⟨hhigh, hlow⟩ := hvariant
  obtain ⟨hbyte10, hbyte11⟩ := regIndexBytes_eq hhigh hlow
  have henables : 0#4 ++ firstBeOf tlp = byteAt tlp 7 := by
    rw [show 0#4 = lastBeOf tlp from hlast.symm]
    exact BitVec.extractLsb'_append_extractLsb'
  rw [inBytes_header tlp (by decide), ← inBytes_append tlp 8 2 2, configTlp, lengthBytes_eq_inBytes (by omega) hbyte2 hL.symm,
    be16_field16 (by omega), be16_field16 (by omega), henables, hbyte10, hbyte11, inBytes_two (a := 0) (by omega),
    inBytes_two (a := 6) (by omega), inBytes_two (a := 8 + 2) (by omega), show byteAt tlp (0 + 1) = 0 from hbyte1]
  simp only [List.append_assoc]

/-- What CFG_DECODE accepts is a configuration request (44_config.md R211). -/
theorem cfgTlp_of_cfgDecode {tlp : List Byte} {resp : Response} (h : cfgDecode tlp = .ok resp) :
    ∃ type1 write id tag tgt reg be payload, LegalCfgPayload write payload ∧
      tlp = cfgTlp type1 write id tag tgt reg be payload := by
  simp only [cfgDecode, cfgDecodeAs, except_bind_eq_ok, decodePrologue_ok, checkMbz_ok, checkPayload_ok, require_eq_ok,
    beq_iff_eq] at h
  obtain ⟨-, ⟨-, hkind, hhdr⟩, -, hmbz, -, hlength, -, hlast, -, hpayload, -⟩ := h
  obtain ⟨hbyte0, hfmt, hmasks⟩ := byteZero_of_acceptsCfg _ hkind
  have hsize : headerBytes tlp = 12 := by rw [headerBytes, hfmt]; rfl
  have hsplit := inBytes_append_drop tlp 12
  rw [header_eq_configTlp (by omega) hmasks hmbz hlength hlast, hbyte0, ← cfgTlp_eq] at hsplit
  exact ⟨_, _, _, _, _, _, _, tlp.drop 12, (List.length_drop ..).trans hpayload, hsplit.symm⟩

/-- Settles O51: the fields CFG_DECODE finds, written out as a request, are the buffer. -/
theorem cfgDecodeAcceptsOnlyConfigRequests : Obligations.CfgDecodeAcceptsOnlyConfigRequests := by
  intro s t r bytes hin hsucceeds
  obtain ⟨resp, hresp⟩ := exists_ok_of_succeeds (f := cfgDecode) hin rfl rfl (yields_cfgDecodeAs _ bytes) hsucceeds
  exact cfgTlp_of_cfgDecode hresp

end Sys2Proof.Proofs
end

section
/-! PROOF. The header model and the dispatch on byte 0 (40_header_classify.md): CLASSIFY; which kinds each decoder knows; and
that DECODE_ANY, a row of byte 0 and the four attempts are one operation, with at most one winner (45_validation.md R241,
R242). -/

namespace Sys2Proof.Proofs

open Sys2Proof Sys2Proof.Machine Sys2Proof.Safety

/-! ## CLASSIFY (40_header_classify.md R132) -/

section HoldsLength

variable {s : State} {r : RequestFile} {n : Nat} (h : HoldsLength s r n)
include h

theorem inLen_of_holdsLength : (operandsOf r).inLen = n := by
  obtain ⟨l, hl, rfl⟩ := h.len
  simp [operandsOf, hl]

theorem meaningfulBytes_of_holdsLength : meaningfulBytes r = n := by
  obtain ⟨l, hl, rfl⟩ := h.len
  exact meaningfulBytes_of hl h.bound

/-- CLASSIFY runs where byte 0 is written, or is not read because the buffer is too short (log 3). -/
theorem exec_classify_of_holdsLength (hbyte0 : n ≤ 3 ∨ (readByte r.inBuf 0).isSome = true) :
    exec .classify s = .next (deliver s (respond (classify (operandsOf r)))) := by
  have hinLen : fieldWritten r .inLen = true := by
    obtain ⟨l, hl, -⟩ := h.len
    simp [fieldWritten, hl]
  have hinByte0 : fieldWritten r .inByte0 = true := by
    rw [fieldWritten, meaningfulBytes_of_holdsLength h, Bool.or_eq_true, decide_eq_true_eq]
    exact hbyte0.imp_left Nat.lt_succ_of_le
  have hw : fieldsWritten r (fieldsRead .classify) = true := by
    simp [fieldsWritten, fieldsRead, operandFields, hinLen, hinByte0, show fieldWritten r .cmd = true from h.cmd]
  have hlen : (operandsOf r).inLen ≤ 4112 := (inLen_of_holdsLength h).trans_le h.bound
  exact (complete_eq h.captured hw).trans (by rw [withinBuffer_of_le hlen])

theorem byteAt_zero_of_holdsLength {b : Byte} (hpos : 0 < n) (hb : readByte r.inBuf 0 = some b) :
    byteAt (operandsOf r).input 0 = b := by
  obtain ⟨m, rfl⟩ := Nat.exists_eq_succ_of_ne_zero hpos.ne'
  simp only [operandsOf, meaningfulBytes_of_holdsLength h, bufferBytes, hb]
  rfl

end HoldsLength

/-- The three flags of a Fmt, as bits of byte 0 (40_header_classify.md R132). -/
theorem fmt_flags_of_byte0 (b : Byte) :
    hasPayloadFlag (fmtOf b) = (decide (b.toNat ≤ 0x7F) && b.getLsbD 6) ∧
    addr64Flag (fmtOf b) = (decide (b.toNat ≤ 0x7F) && b.getLsbD 5) ∧
    headerDw (fmtOf b) = if b.toNat ≤ 0x7F then (if b.getLsbD 5 then 4 else 3) else if b.toNat ≤ 0x9F then 1 else 0 := by
  revert b
  decide

theorem classify_of_short {o : Operands} (h : o.inLen ≤ 3) : classify o = .error ⟨.malformedHeader, .buffer⟩ := by
  have hlen : decide (Config.minClassifyBytes ≤ o.inLen) = false := decide_eq_false (Nat.not_le.2 (Nat.lt_succ_of_le h))
  rw [classify, hlen]
  rfl

theorem classify_of_four_le {o : Operands} {b : Byte} (h : 4 ≤ o.inLen) (hb : byteAt o.input 0 = b) :
    classify o = .ok { Response.invalid with
      fmt := some (fmtOf b)
      type := some (typeOf b)
      kind := some (kindOf b)
      hasPayload := some (hasPayloadFlag (fmtOf b))
      addr64 := some (addr64Flag (fmtOf b))
      hdrDw := some (headerDw (fmtOf b)) } := by
  have hlen : decide (Config.minClassifyBytes ≤ o.inLen) = true := decide_eq_true h
  rw [classify, hlen, hb]
  rfl

/-- Settles O29: CLASSIFY's only check is on IN_LEN, and its flags are functions of byte 0. -/
theorem classifyResult : Obligations.ClassifyResult := by
  intro s r n hin
  have hlen := inLen_of_holdsLength hin
  refine ⟨fun hshort => ?_, fun b hlong hb => ?_⟩
  · have hexec := exec_classify_of_holdsLength hin (.inl hshort)
    rw [classify_of_short (hlen.trans_le hshort)] at hexec
    exact ⟨_, hexec, rfl, readByte_outBytes []⟩
  · have hexec := exec_classify_of_holdsLength hin (.inr (by rw [hb]; rfl))
    have hbyte0 : byteAt (operandsOf r).input 0 = b := byteAt_zero_of_holdsLength hin (by omega) hb
    obtain ⟨hpayload, haddr64, hdw⟩ := fmt_flags_of_byte0 b
    rw [classify_of_four_le (hlong.trans_eq hlen.symm) hbyte0, hpayload, haddr64, hdw] at hexec
    exact ⟨_, hexec, rfl, readByte_outBytes []⟩

/-! ## Which kinds a decoder knows (40_header_classify.md R131) -/

/-- What the pseudocode raises is never UnsupportedType. -/
def NeverUnsupported {α : Type} (x : Except Raise α) : Prop := ∀ e, x = .error e → e.status ≠ .unsupportedType

theorem neverUnsupported_ok {α : Type} (a : α) : NeverUnsupported (.ok a) := by
  rintro _ ⟨⟩

theorem NeverUnsupported.bind {α β : Type} {x : Except Raise α} {g : α → Except Raise β} (hx : NeverUnsupported x)
    (hg : ∀ a, NeverUnsupported (g a)) : NeverUnsupported (x >>= g) := by
  cases x with
  | ok a => exact hg a
  | error e =>
    rintro _ ⟨⟩
    exact hx e rfl

theorem neverUnsupported_require {c : Bool} {st : Status} {f : ErrField} (hst : st ≠ .unsupportedType := by decide) :
    NeverUnsupported (require c st f) := by
  cases c with
  | true => exact neverUnsupported_ok ()
  | false =>
    rintro _ ⟨⟩
    exact hst

theorem NeverUnsupported.check {α : Type} {c : Bool} {st : Status} {f : ErrField} {g : Unit → Except Raise α}
    (hg : NeverUnsupported (g ())) (hst : st ≠ .unsupportedType := by decide) :
    NeverUnsupported (require c st f >>= g) :=
  (neverUnsupported_require hst).bind fun _ => hg

theorem neverUnsupported_defined {x : Option Nat} {st : Status} {f : ErrField} (hst : st ≠ .unsupportedType := by decide) :
    NeverUnsupported (defined x st f) := by
  cases x with
  | some n => exact neverUnsupported_ok n
  | none =>
    rintro _ ⟨⟩
    exact hst

theorem neverUnsupported_checkPayload (tlp : List Byte) (hdr need : Nat) : NeverUnsupported (checkPayload tlp hdr need) :=
  .check neverUnsupported_require

theorem neverUnsupported_beToCount (L : Nat) (fbe lbe : BitVec 4) : NeverUnsupported (beToCount L fbe lbe) := by
  unfold beToCount
  split_ifs
  · exact .check (.bind neverUnsupported_defined fun _ => .check (neverUnsupported_ok _))
  · exact .check (.bind neverUnsupported_defined fun _ => neverUnsupported_ok _)

theorem neverUnsupported_memoryChecks (kind : Kind) (tlp : List Byte) : NeverUnsupported (memoryChecks kind tlp) :=
  .check ((neverUnsupported_beToCount _ _ _).bind fun _ => .check (neverUnsupported_ok _))

theorem neverUnsupported_decodePrologue {accepts : Kind → Bool} {kind : Kind} (tlp : List Byte) (h : accepts kind = true) :
    NeverUnsupported (decodePrologue accepts kind tlp) := by
  rw [decodePrologue, h]
  exact .check neverUnsupported_require

theorem decodePrologue_of_not_accepted {accepts : Kind → Bool} {kind : Kind} {tlp : List Byte} (hlen : 4 ≤ tlp.length)
    (h : accepts kind = false) : decodePrologue accepts kind tlp = .error ⟨.unsupportedType, .fmtType⟩ := by
  rw [decodePrologue, show decide (Config.minClassifyBytes ≤ tlp.length) = true from decide_eq_true hlen, h]
  rfl

/-- The kinds a candidate's decoder asks for (40_header_classify.md R131). -/
def acceptsBy : Candidate → Kind → Bool
  | .mrd => acceptsMrd
  | .mwr => acceptsMwr
  | .cpl => acceptsCpl
  | .cfg => acceptsCfg

/-- A candidate's decoder (45_validation.md R241). -/
def decodeBy : Candidate → List Byte → Except Raise Response
  | .mrd => mrdDecode
  | .mwr => mwrDecode
  | .cpl => cplDecode
  | .cfg => cfgDecode

/-- The command that runs a candidate's decoder alone (30_encoding.md R110). -/
def commandOf : Candidate → Instr
  | .mrd => .mrdDecode
  | .mwr => .mwrDecode
  | .cpl => .cplDecode
  | .cfg => .cfgDecode

/-- The variant of a kind is the one decoder that asks for it (30_encoding.md R84; 40_header_classify.md R131). -/
theorem acceptsBy_iff {c : Candidate} {k : Kind} : acceptsBy c k = true ↔ variantOf k = some c := by
  cases c <;> cases k <;> decide

/-- A decoder is the prologue for its kinds, and then checks that do not ask for the kind (45_validation.md R230, R234). -/
theorem decodeBy_eq_prologue_bind (c : Candidate) (tlp : List Byte) : ∃ rest : Except Raise Response, NeverUnsupported rest ∧
    decodeBy c tlp = (decodePrologue (acceptsBy c) (kindOf (byteAt tlp 0)) tlp >>= fun _ => rest) := by
  cases c with
  | mrd =>
    refine ⟨_, ?_, rfl⟩
    exact (neverUnsupported_memoryChecks _ _).bind fun _ => (neverUnsupported_checkPayload _ _ _).bind fun _ =>
      neverUnsupported_ok _
  | mwr =>
    refine ⟨_, ?_, rfl⟩
    exact (neverUnsupported_memoryChecks _ _).bind fun _ => (neverUnsupported_checkPayload _ _ _).bind fun _ =>
      .check (neverUnsupported_ok _)
  | cpl =>
    refine ⟨_, .check (.check ?_), rfl⟩
    split_ifs
    · exact (neverUnsupported_checkPayload _ _ _).bind fun _ => .check (neverUnsupported_ok _)
    · exact .check ((neverUnsupported_checkPayload _ _ _).bind fun _ => neverUnsupported_ok _)
  | cfg =>
    refine ⟨_, ?_, rfl⟩
    exact .check (.check (.check ((neverUnsupported_checkPayload _ _ _).bind fun _ => neverUnsupported_ok _)))

section KindOfByteZero

variable {c : Candidate} {tlp : List Byte}

theorem decodeBy_of_not_accepted (hlen : 4 ≤ tlp.length) (h : acceptsBy c (kindOf (byteAt tlp 0)) = false) :
    decodeBy c tlp = unsupported := by
  obtain ⟨rest, -, hdecode⟩ := decodeBy_eq_prologue_bind c tlp
  rw [hdecode, decodePrologue_of_not_accepted hlen h]
  rfl

theorem neverUnsupported_decodeBy (h : acceptsBy c (kindOf (byteAt tlp 0)) = true) : NeverUnsupported (decodeBy c tlp) := by
  obtain ⟨rest, hrest, hdecode⟩ := decodeBy_eq_prologue_bind c tlp
  rw [hdecode]
  exact (neverUnsupported_decodePrologue tlp h).bind fun _ => hrest

theorem accepted_of_decodeBy_ok {resp : Response} (h : decodeBy c tlp = .ok resp) :
    4 ≤ tlp.length ∧ acceptsBy c (kindOf (byteAt tlp 0)) = true := by
  obtain ⟨rest, -, hdecode⟩ := decodeBy_eq_prologue_bind c tlp
  obtain ⟨_, hprologue, -⟩ := except_bind_eq_ok.1 (hdecode.symm.trans h)
  obtain ⟨hlen, hkind, -⟩ := decodePrologue_ok.1 hprologue
  exact ⟨hlen, hkind⟩

end KindOfByteZero

theorem exec_commandOf {s : State} {r : RequestFile} {bytes : List Byte} (c : Candidate) (hin : HoldsInput s r bytes) :
    exec (commandOf c) s = .next (deliver s (respond (decodeBy c bytes))) := by
  have hfields : operandFields (commandOf c) = [.inBuf] := by cases c <;> rfl
  have hrun : exec (commandOf c) s = runCommand (commandOf c) (fun o => respond (decodeBy c o.input)) s := by cases c <;> rfl
  exact hrun.trans (runCommand_of_holdsInput (f := fun bytes => respond (decodeBy c bytes)) hin hfields)

/-- A decoder's command answers UnsupportedType to the kinds it does not ask for, and to no other. -/
theorem commandOf_accepts {c : Candidate} {kinds : List Kind} (hkinds : ∀ k, k ∈ kinds ↔ acceptsBy c k = true) (s : State)
    (r : RequestFile) (bytes : List Byte) (hin : HoldsInput s r bytes) (hlen : 4 ≤ bytes.length) :
    (kindOf (byteOf bytes 0) ∉ kinds → Raises s (exec (commandOf c) s) .unsupportedType .fmtType) ∧
    (kindOf (byteOf bytes 0) ∈ kinds → ∃ t, exec (commandOf c) s = .next t ∧ t.resp.status ≠ some .unsupportedType) := by
  have hexec := exec_commandOf c hin
  rw [hkinds, Bool.not_eq_true]
  refine ⟨fun hother => ?_, fun hown => ⟨_, hexec, ?_⟩⟩
  · rw [decodeBy_of_not_accepted hlen hother] at hexec
    exact ⟨_, hexec, rfl, readByte_outBytes []⟩
  · have hnever := neverUnsupported_decodeBy hown
    cases h : decodeBy c bytes with
    | ok resp => simp
    | error e => simpa using hnever e h

/-- Settles O54: the prologue of each decoder asks for the kind, and none of its other checks answers UnsupportedType. -/
theorem decodersAcceptTheirKindsOnly : Obligations.DecodersAcceptTheirKindsOnly := by
  refine ⟨commandOf_accepts (c := .mrd) fun k => ?_, commandOf_accepts (c := .mwr) fun k => ?_,
    commandOf_accepts (c := .cpl) fun k => ?_, commandOf_accepts (c := .cfg) fun k => ?_, by simp⟩
  all_goals cases k <;> decide

/-! ## The dispatch and the four attempts (40_header_classify.md R133; 45_validation.md R241) -/

/-- The four results where the candidate `c` answered `x`, and each other one does not know the kind. -/
def answerOf (c : Candidate) (x : Except Raise Response) : PerCandidate (Except Raise Response) :=
  ⟨if c = .mrd then x else unsupported, if c = .mwr then x else unsupported, if c = .cpl then x else unsupported,
    if c = .cfg then x else unsupported⟩

section Dispatch

variable {c : Candidate} {tlp : List Byte} (hlen : 4 ≤ tlp.length)
include hlen

theorem decodeBy_of_variantOf_ne (hv : variantOf (kindOf (byteAt tlp 0)) ≠ some c) : decodeBy c tlp = unsupported :=
  decodeBy_of_not_accepted hlen (Bool.eq_false_iff.2 fun h => hv (acceptsBy_iff.1 h))

/-- Of the four attempts one decoder at most knows the kind (45_validation.md R242). -/
theorem decodeAny_of_variantOf (hv : variantOf (kindOf (byteAt tlp 0)) = some c) :
    decodeAny tlp = verdict (answerOf c (decodeBy c tlp)) := by
  have hother : ∀ c', c ≠ c' → decodeBy c' tlp = unsupported := fun c' hne =>
    decodeBy_of_variantOf_ne hlen fun h => hne (Option.some.inj (hv.symm.trans h))
  have hentry : ∀ c', (if c = c' then decodeBy c tlp else unsupported) = decodeBy c' tlp := fun c' => by
    by_cases h : c = c'
    · rw [if_pos h, h]
    · rw [if_neg h, hother c' h]
  simp only [answerOf, hentry]
  rfl

theorem decodeAny_of_no_variant (hv : variantOf (kindOf (byteAt tlp 0)) = none) :
    decodeAny tlp = verdict ⟨unsupported, unsupported, unsupported, unsupported⟩ := by
  have hall : ∀ c, decodeBy c tlp = unsupported := fun c => decodeBy_of_variantOf_ne hlen (by simp [hv])
  show verdict ⟨decodeBy .mrd tlp, decodeBy .mwr tlp, decodeBy .cpl tlp, decodeBy .cfg tlp⟩ = _
  simp only [hall]

theorem dispatchKind_of_variantOf (hv : variantOf (kindOf (byteAt tlp 0)) = some c) :
    dispatchKind (kindOf (byteAt tlp 0)) tlp = verdict (answerOf c (decodeBy c tlp)) := by
  have hlong : ¬ tlp.length < Config.minClassifyBytes := Nat.not_lt.2 hlen
  cases c <;> simp only [dispatchKind, hlong, if_false, hv] <;> rfl

/-- Dispatching on byte 0 is trying all four (40_header_classify.md R133). -/
theorem dispatchKind_eq_decodeAny : dispatchKind (kindOf (byteAt tlp 0)) tlp = decodeAny tlp := by
  cases hv : variantOf (kindOf (byteAt tlp 0)) with
  | none => rw [dispatchKind_of_no_variant hv hlen, decodeAny_of_no_variant hlen hv]
  | some c => rw [dispatchKind_of_variantOf hlen hv, decodeAny_of_variantOf hlen hv]

end Dispatch

/-- The row that byte 0 decodes to has the KIND of byte 0 (30_encoding.md R84; 40_header_classify.md R130). -/
theorem rowKind_decodeTlpByte0 (b : Byte) : rowKind (decodeTlpByte0 b) = some (kindOf b) := by
  revert b
  decide

section OnBuffer

variable {s : State} {r : RequestFile} {bytes : List Byte} (hin : HoldsInput s r bytes)
include hin

theorem exec_decodeAny_of_holdsInput : exec .decodeAny s = .next (deliver s (decodeAny bytes)) :=
  runCommand_of_holdsInput hin rfl

/-- The row that a buffer's byte 0 decodes to is the DECODE_ANY of the buffer (40_header_classify.md R133). -/
theorem exec_decodeTlpByte0 (hlen : 4 ≤ bytes.length) : exec (decodeTlpByte0 (byteOf bytes 0)) s = exec .decodeAny s := by
  have hrun : exec (decodeTlpByte0 (byteOf bytes 0)) s =
      .next (deliver s (dispatchKind (kindOf (byteAt bytes 0)) bytes)) :=
    (exec_of_rowKind (rowKind_decodeTlpByte0 _) s).trans
      (runCommand_of_holdsInput (f := dispatchKind (kindOf (byteAt bytes 0))) hin (operandFields_decodeTlpByte0 _))
  rw [hrun, dispatchKind_eq_decodeAny hlen, exec_decodeAny_of_holdsInput hin]

theorem meaningfulBytes_of_holdsInput : meaningfulBytes r = bytes.length := by
  rw [← (operandsOf_of_holdsInput hin).2, operandsOf, length_bufferBytes]

/-- The image of a DECODE_ANY ends with byte 0 of the buffer where there are 4 bytes to classify (45_validation.md R230;
log 5). -/
theorem requestImage_of_decodeAny (hcmd : r.cmd = some 0x40) :
    requestImage r = .ok (if 4 ≤ bytes.length then tlpImage (byteOf bytes 0) else [decodeAnyCode]) := by
  have hpresent : tlpPresent r = decide (4 ≤ bytes.length) := by
    rw [tlpPresent, meaningfulBytes_of_holdsInput hin]
    rfl
  by_cases hlen : 4 ≤ bytes.length
  · have hpos : 0 < bytes.length := by omega
    have hbyte0 : readByte r.inBuf 0 = some (byteOf bytes 0) := by
      rw [hin.bytes 0 hpos, byteOf, List.getElem?_eq_getElem hpos, List.getD_eq_getElem _ _ hpos]
    simp [requestImage, hcmd, hpresent, hlen, hbyte0, tlpImage, decodeAnyCode]
  · simp [requestImage, hcmd, hpresent, hlen, decodeAnyCode]

end OnBuffer

/-- Settles O18: with 4 bytes the finish runs the row of byte 0, and else DECODE_ANY itself. -/
theorem decodeAnyDispatchIsTheMultiAttempt : Obligations.DecodeAnyDispatchIsTheMultiAttempt := by
  intro s r bytes hfinish hin hcmd
  have himage := requestImage_of_decodeAny hin hcmd
  rw [step_of_finishing hfinish]
  by_cases hlen : 4 ≤ bytes.length
  · rw [if_pos hlen] at himage
    rw [finish_eq_exec hin.captured himage (decode_tlpImage _), exec_decodeTlpByte0 hin hlen]
  · rw [if_neg hlen] at himage
    exact finish_eq_exec hin.captured himage rfl

/-- Settles O60: what is encoded with byte 0 of the buffer is the row that byte 0 decodes to, by O1. -/
theorem tlpRowIsDecodeAny : Obligations.TlpRowIsDecodeAny := by
  intro s r bytes i hin hlen hwf hencode
  have hdecode := decodeOfEncodeIsIdentity i hwf
  rw [hencode] at hdecode
  obtain rfl : decodeTlpByte0 (byteOf bytes 0) = i := Except.ok.inj hdecode
  exact exec_decodeTlpByte0 hin hlen

/-! ## The winner (45_validation.md R241, R242) -/

/-- The number of a candidate, which WINNER holds (45_validation.md R241). -/
def candidateNumber : Candidate → BitVec 3
  | .mrd => 0
  | .mwr => 1
  | .cpl => 2
  | .cfg => 3

theorem verdict_answerOf_ok (c : Candidate) (resp : Response) :
    verdict (answerOf c (.ok resp)) = withVerdict c .ok .noField (candidateNumber c) (succeed resp) := by
  cases c <;> rfl

/-- The decoder that succeeds on a TLP is its kind's, and the others do not know the kind (45_validation.md R242). -/
theorem decodeAny_of_decodeBy_ok {c : Candidate} {tlp : List Byte} {resp : Response} (h : decodeBy c tlp = .ok resp) :
    decodeAny tlp = withVerdict c .ok .noField (candidateNumber c) (respond (decodeBy c tlp)) := by
  obtain ⟨hlen, hkind⟩ := accepted_of_decodeBy_ok h
  rw [decodeAny_of_variantOf hlen (acceptsBy_iff.1 hkind), h, verdict_answerOf_ok, respond_ok]

/-- DECODE_ANY, and the row of byte 0, deliver what the decoder that succeeds delivers, with the verdict of R241. -/
theorem exec_delivers_winner {c : Candidate} {s : State} {r : RequestFile} {tlp out : List Byte} {i row : Instr}
    {resp fields : Response} (hin : HoldsInput s r tlp) (hok : decodeBy c tlp = .ok resp)
    (hfields : respond (decodeBy c tlp) = { fields with outBuf := outBytes out })
    (hrow : decodeTlpByte0 (byteOf tlp 0) = row) (hi : i ∈ [.decodeAny, row]) :
    ∃ t, exec i s = .next t ∧ Delivers s t (withVerdict c .ok .noField (candidateNumber c) fields) out := by
  have hany : exec i s = exec .decodeAny s := by
    subst hrow
    rcases List.mem_pair.1 hi with rfl | rfl
    · rfl
    · exact exec_decodeTlpByte0 hin (accepted_of_decodeBy_ok hok).1
  rw [hany, exec_decodeAny_of_holdsInput hin, decodeAny_of_decodeBy_ok hok, hfields]
  exact ⟨_, rfl, rfl, readByte_outBytes out⟩

theorem decodeTlpByte0_readTlp (n : Nat) (id : BitVec 16) (tag : Byte) (a : BitVec 64) :
    decodeTlpByte0 (byteOf (readTlp n id tag a) 0) = if needs64 a then .mrd64 else .mrd32 := by
  show decodeTlpByte0 (if needs64 a then 0x20 else 0x00) = _
  cases needs64 a <;> rfl

theorem decodeTlpByte0_writeTlp (payload : List Byte) (id : BitVec 16) (tag : Byte) (a : BitVec 64) :
    decodeTlpByte0 (byteOf (writeTlp payload id tag a) 0) = if needs64 a then .mwr64 else .mwr32 := by
  show decodeTlpByte0 (if needs64 a then 0x60 else 0x40) = _
  cases needs64 a <;> rfl

theorem decodeTlpByte0_cfgByte0 (type1 write : Bool) : decodeTlpByte0 (cfgByte0 type1 write) =
    if write then (if type1 then .cfgWr1 else .cfgWr0) else (if type1 then .cfgRd1 else .cfgRd0) := by
  cases write <;> cases type1 <;> rfl

/-- Settles O58: on a TLP of a variant that variant's decoder succeeds, so it is the winner, and the row of byte 0 runs it. -/
theorem decodeAnyDeliversTheWinner : Obligations.DecodeAnyDeliversTheWinner := by
  refine ⟨fun s r n id tag a i hlegal hin hi => ?_, fun s r payload id tag a i hlegal hin hi => ?_,
    fun s r cid id st bc tag la i hst hpos hmax hin hi => ?_,
    fun s r cid id st bc tag la payload i hst hpos hmax hdata hin hi => ?_,
    fun s r type1 write id tgt tag reg be payload i hlegal hin hi => ?_⟩
  · exact exec_delivers_winner (c := .mrd) hin (mrdDecode_readTlp hlegal) (respond_mrdDecode_readTlp hlegal)
      (decodeTlpByte0_readTlp n id tag a) hi
  · exact exec_delivers_winner (c := .mwr) hin (mwrDecode_writeTlp hlegal) (respond_mwrDecode_writeTlp hlegal)
      (decodeTlpByte0_writeTlp payload id tag a) hi
  · exact exec_delivers_winner (c := .cpl) hin (cplDecode_cplTlp hst) (respond_cplDecode_cplTlp hst hpos hmax) rfl hi
  · exact exec_delivers_winner (c := .cpl) hin (cplDecode_cplDTlp hst hpos hmax hdata)
      (respond_cplDecode_cplDTlp hst hpos hmax hdata) rfl hi
  · exact exec_delivers_winner (c := .cfg) hin (cfgDecode_cfgTlp hlegal) (respond_cfgDecode_cfgTlp hlegal)
      (decodeTlpByte0_cfgByte0 type1 write) hi

end Sys2Proof.Proofs
end

section
/-! PROOF. The Device ID commands (41_device_id.md): a packed ID and its bit fields; the reading of the text form as its
grammar, in both directions; the canonical text; and the four laws of R146. -/

namespace Sys2Proof.Proofs

open Sys2Proof Sys2Proof.Machine Sys2Proof.Safety

/-! ## Packed IDs (41_device_id.md R140) -/

theorem toNat_busOf (v : BitVec 16) : (busOf v).toNat = v.toNat / 256 := by
  have hv := v.isLt
  simp only [busOf, BitVec.extractLsb'_toNat, Nat.shiftRight_eq_div_pow]
  omega

theorem toNat_devOf (v : BitVec 16) : (devOf v).toNat = v.toNat / 8 % 32 := by
  simp only [devOf, BitVec.extractLsb'_toNat, Nat.shiftRight_eq_div_pow]

theorem toNat_funcOf (v : BitVec 16) : (funcOf v).toNat = v.toNat % 8 := by
  simp only [funcOf, BitVec.extractLsb'_toNat, Nat.shiftRight_eq_div_pow, pow_zero, Nat.div_one]

theorem toNat_packId {b d f : Nat} (hb : b ≤ 255) (hd : d ≤ 31) (hf : f ≤ 7) :
    (packId b d f).toNat = b * 256 + d * 8 + f := by
  rw [packId, BitVec.toNat_ofNat]
  omega

/-- Unpack of Pack, on the triples Pack is defined on. -/
theorem unpack_packId {b d f : Nat} (hb : b ≤ 255) (hd : d ≤ 31) (hf : f ≤ 7) :
    (busOf (packId b d f)).toNat = b ∧ (devOf (packId b d f)).toNat = d ∧ (funcOf (packId b d f)).toNat = f := by
  rw [toNat_busOf, toNat_devOf, toNat_funcOf, toNat_packId hb hd hf]
  omega

/-- Pack of Unpack. -/
theorem packId_unpack (v : BitVec 16) : packId (busOf v).toNat (devOf v).toNat (funcOf v).toNat = v := by
  have hv := v.isLt
  apply BitVec.eq_of_toNat_eq
  rw [packId, BitVec.toNat_ofNat, toNat_busOf, toNat_devOf, toNat_funcOf]
  omega

/-- The sum of R140 is the three fields side by side (30_encoding.md R95). A bus out of range loses the same bits in both. -/
theorem packId_eq_idOf (b : Nat) {d f : Nat} (hd : d ≤ 31) (hf : f ≤ 7) : packId b d f = idOf b d f := by
  have hdev : (BitVec.ofNat 5 d ++ BitVec.ofNat 3 f : BitVec 8).toNat = d * 8 + f := by
    rw [toNat_append_eq_add, BitVec.toNat_ofNat, BitVec.toNat_ofNat]
    omega
  have hid : (idOf b d f).toNat = b % 256 * 256 + (d * 8 + f) := by
    rw [idOf, toNat_append_eq_add, hdev, BitVec.toNat_ofNat]
    rfl
  apply BitVec.eq_of_toNat_eq
  rw [hid, packId, BitVec.toNat_ofNat]
  omega

/-- Settles O30: both directions are arithmetic on the numbers of the three fields. -/
theorem packAndUnpackAreInverse : Obligations.PackAndUnpackAreInverse :=
  ⟨fun _ _ _ hb hd hf => ⟨toNat_packId hb hd hf, unpack_packId hb hd hf⟩,
    fun v => ⟨rfl, rfl, rfl, packId_unpack v⟩⟩

/-- What an ID command writes is what R141 and R144 say it writes. -/
theorem succeed_idResponse (b : Nat) {d f : Nat} (hd : d ≤ 31) (hf : f ≤ 7) :
    succeed (idResponse b d f) = { idFields b d f with outBuf := outBytes [] } := by
  rw [idFields, ← packId_eq_idOf b hd hf]
  rfl

/-! ## Running a command on its fields (10_state.md R23) -/

theorem holdsLength_of_holdsInput {s : State} {r : RequestFile} {bytes : List Byte} (h : HoldsInput s r bytes) :
    HoldsLength s r bytes.length where
  captured := h.captured
  cmd := h.cmd
  len := ⟨_, h.len, by
    rw [BitVec.toNat_ofNat]
    exact Nat.mod_eq_of_lt (h.bound.trans_lt (by decide))⟩
  bound := h.bound

/-- A command runs on the request of a length the block takes where its operands are written. -/
theorem runCommand_of_holdsLength {i : Instr} {op : Operands → Response} {s : State} {r : RequestFile} {n : Nat}
    (h : HoldsLength s r n) (hi : fieldsWritten r (operandFields i) = true) :
    runCommand i op s = .next (deliver s (op (operandsOf r))) := by
  obtain ⟨l, hl, -⟩ := h.len
  have hinLen : fieldWritten r .inLen = true := by
    rw [fieldWritten, hl]
    rfl
  have hw : fieldsWritten r (fieldsRead i) = true := by
    rw [fieldsWritten, fieldsRead, List.all_append, Bool.and_eq_true]
    exact ⟨by simp [hinLen, show fieldWritten r .cmd = true from h.cmd], hi⟩
  have hlen : (operandsOf r).inLen ≤ 4112 := (inLen_of_holdsLength h).trans_le h.bound
  rw [runCommand, complete_eq h.captured hw, withinBuffer_of_le hlen]

/-- An outcome that delivers what `raise` writes is the error. -/
theorem raises_of_deliver {s : State} {o : Host.Outcome State Fault Refusal} {st : Status} {f : ErrField}
    (h : o = .next (deliver s (respond (.error ⟨st, f⟩)))) : Raises s o st f :=
  ⟨_, h, rfl, readByte_outBytes []⟩

/-! ## The checks that DEVID_PACK and DEVID_PARSE share (41_device_id.md R141, R144) -/

/-- A check of the pseudocode, and what follows it. -/
theorem require_decide_bind {α : Type} {p : Prop} [Decidable p] {st : Status} {f : ErrField} {g : Unit → Except Raise α} :
    (require (decide p) st f >>= g) = if p then g () else .error ⟨st, f⟩ := by
  by_cases hp : p
  · rw [if_pos hp, decide_eq_true hp, require_true, except_ok_bind]
  · rw [if_neg hp, decide_eq_false hp, require_false, except_error_bind]

/-- The device is checked, then the function, and then the ID is packed. -/
def checkedId (b d f : Nat) : Except Raise Response := do
  require (decide (d ≤ 31)) .invalidDeviceIdFormat .devidDev
  require (decide (f ≤ 7)) .invalidDeviceIdFormat .devidFunc
  return idResponse b d f

theorem checkedId_eq (b d f : Nat) : checkedId b d f =
    if d ≤ 31 then (if f ≤ 7 then .ok (idResponse b d f) else .error ⟨.invalidDeviceIdFormat, .devidFunc⟩)
    else .error ⟨.invalidDeviceIdFormat, .devidDev⟩ := by
  rw [checkedId, require_decide_bind, require_decide_bind]
  rfl

/-- The three outcomes of the shared checks, delivered. -/
theorem checkedId_outcome {s : State} {o : Host.Outcome State Fault Refusal} {b d f : Nat}
    (h : o = .next (deliver s (respond (checkedId b d f)))) :
    (31 < d → Raises s o .invalidDeviceIdFormat .devidDev) ∧
    (d ≤ 31 → 7 < f → Raises s o .invalidDeviceIdFormat .devidFunc) ∧
    (d ≤ 31 → f ≤ 7 → ∃ t, o = .next t ∧ Delivers s t (idFields b d f) []) := by
  rw [checkedId_eq] at h
  refine ⟨fun hbig => ?_, fun hd hbig => ?_, fun hd hf => ?_⟩
  · rw [if_neg (Nat.not_le.2 hbig)] at h
    exact raises_of_deliver h
  · rw [if_pos hd, if_neg (Nat.not_le.2 hbig)] at h
    exact raises_of_deliver h
  · rw [if_pos hd, if_pos hf, respond_ok, succeed_idResponse b hd hf] at h
    exact ⟨_, h, delivers_outBytes s (idFields b d f) []⟩

/-! ## DEVID_PACK and DEVID_UNPACK (41_device_id.md R141, R142) -/

theorem exec_devidPack {s : State} {r : RequestFile} {n : Nat} {b d f : BitVec 16} (h : HoldsLength s r n)
    (hb : r.bus = some b) (hd : r.dev = some d) (hf : r.func = some f) :
    exec .devidPack s = .next (deliver s (respond (devidPack (operandsOf r)))) ∧
    (operandsOf r).bus = b.toNat ∧ (operandsOf r).dev = d.toNat ∧ (operandsOf r).func = f.toNat :=
  ⟨runCommand_of_holdsLength h (by simp [fieldsWritten, operandFields, fieldWritten, hb, hd, hf]), by simp [operandsOf, hb],
    by simp [operandsOf, hd], by simp [operandsOf, hf]⟩

/-- After its check of the bus DEVID_PACK packs as DEVID_PARSE does. -/
theorem devidPack_eq (o : Operands) : devidPack o =
    if o.bus ≤ 255 then checkedId o.bus o.dev o.func else .error ⟨.invalidDeviceIdFormat, .devidBus⟩ := by
  rw [devidPack, require_decide_bind]
  rfl

/-- Settles O31: the check of the bus, and then those that DEVID_PACK and DEVID_PARSE share. -/
theorem devidPackResult : Obligations.DevidPackResult := by
  intro s r n b d f hin hbus hdev hfunc
  obtain ⟨hexec, hb, hd, hf⟩ := exec_devidPack hin hbus hdev hfunc
  rw [devidPack_eq, hb, hd, hf] at hexec
  by_cases hrange : b.toNat ≤ 255
  · rw [if_pos hrange] at hexec
    obtain ⟨hdevice, hfunction, hok⟩ := checkedId_outcome hexec
    exact ⟨fun hbig => absurd hrange (Nat.not_le.2 hbig), fun _ => hdevice, fun _ => hfunction, fun _ => hok⟩
  · rw [if_neg hrange] at hexec
    exact ⟨fun _ => raises_of_deliver hexec, fun hb => absurd hb hrange, fun hb => absurd hb hrange,
      fun hb => absurd hb hrange⟩

/-- DEVID_UNPACK and DEVID_FORMAT run on the ID16 that the request holds. -/
theorem exec_of_id16 {i : Instr} {op : Operands → Response} {s : State} {r : RequestFile} {n : Nat} {v : BitVec 16}
    (hi : operandFields i = [.id16]) (hrun : exec i s = runCommand i op s) (h : HoldsLength s r n) (hv : r.id16 = some v) :
    exec i s = .next (deliver s (op (operandsOf r))) ∧ (operandsOf r).id16 = v :=
  ⟨hrun.trans (runCommand_of_holdsLength h (by simp [fieldsWritten, hi, fieldWritten, hv])), by simp [operandsOf, hv]⟩

/-- Settles O32: the command has no check, and its fields are the bit fields of ID16. -/
theorem devidUnpackResult : Obligations.DevidUnpackResult := by
  intro s r n v hin hid
  obtain ⟨hexec, hv⟩ := exec_of_id16 (i := .devidUnpack) rfl rfl hin hid
  rw [devidUnpack, hv] at hexec
  exact ⟨_, hexec, rfl, readByte_outBytes []⟩

/-! ## The reading of the text form (41_device_id.md R143) -/

/-- The model's digits are those of R143, with their values. -/
theorem hexValue_eq_some_iff {c : Byte} {v : Nat} : hexValue c = some v ↔ HexDigit c v := by
  constructor
  · intro h
    unfold hexValue at h
    split_ifs at h with hdec hlow hupp
    all_goals
      obtain rfl := Option.some.inj h
      unfold HexDigit
      bv_omega
  · rintro (⟨hv, rfl⟩ | ⟨hv, hv', rfl | rfl⟩)
    all_goals
      interval_cases v <;> rfl

/-- Neither separator is a digit, so `field2` ends where its digits do. -/
theorem hexValue_separators : hexValue 0x3A = none ∧ hexValue 0x2E = none := ⟨rfl, rfl⟩

theorem takeField2_append {text rest : List Byte} {sep : Byte} {v : Nat} (h : Field2 text v) (hsep : hexValue sep = none) :
    takeField2 (text ++ sep :: rest) = some (v, sep :: rest) := by
  rcases h with ⟨c, hc, rfl⟩ | ⟨c, c', x, y, hc, hc', rfl, rfl⟩
  · simp [takeField2, hexValue_eq_some_iff.2 hc, hsep]
  · simp [takeField2, hexValue_eq_some_iff.2 hc, hexValue_eq_some_iff.2 hc']

theorem field2_of_takeField2 {text rest : List Byte} {v : Nat} (h : takeField2 text = some (v, rest)) :
    ∃ digits, Field2 digits v ∧ text = digits ++ rest := by
  match text with
  | [] => cases h
  | [c] =>
    obtain ⟨x, hx, hpair⟩ := Option.map_eq_some_iff.1 h
    cases hpair
    exact ⟨[c], .inl ⟨c, hexValue_eq_some_iff.1 hx, rfl⟩, rfl⟩
  | c :: c' :: tail =>
    simp only [takeField2] at h
    split at h
    next x y hx hy =>
      cases h
      exact ⟨[c, c'], .inr ⟨c, c', x, y, hexValue_eq_some_iff.1 hx, hexValue_eq_some_iff.1 hy, rfl, rfl⟩, rfl⟩
    next x hx hy =>
      cases h
      exact ⟨[c], .inl ⟨c, hexValue_eq_some_iff.1 hx, rfl⟩, rfl⟩
    next => cases h

theorem takeByte_eq_some_iff {c : Byte} {text rest : List Byte} : takeByte c text = some rest ↔ text = c :: rest := by
  cases text with
  | nil => simp [takeByte]
  | cons b tail => simp [takeByte]

theorem takeLastDigit_eq_some_iff {text : List Byte} {v : Nat} :
    takeLastDigit text = some v ↔ ∃ c, HexDigit c v ∧ text = [c] := by
  match text with
  | [] => simp [takeLastDigit]
  | [c] => simp [takeLastDigit, hexValue_eq_some_iff]
  | _ :: _ :: _ => simp [takeLastDigit]

/-- The pseudocode reads the texts of the form, with their numbers, and no others. -/
theorem parseId_eq_some_iff {text : List Byte} {b d f : Nat} : parseId text = some (b, d, f) ↔ TextForm text b d f := by
  constructor
  · intro h
    simp only [parseId, Option.bind_eq_bind, Option.bind_eq_some_iff, Prod.exists] at h
    obtain ⟨b', afterBus, hbus, afterColon, hcolon, d', afterDev, hdev, afterDot, hdot, f', hlast, hpure⟩ := h
    cases hpure
    obtain ⟨busText, hbusText, rfl⟩ := field2_of_takeField2 hbus
    obtain rfl := takeByte_eq_some_iff.1 hcolon
    obtain ⟨devText, hdevText, rfl⟩ := field2_of_takeField2 hdev
    obtain rfl := takeByte_eq_some_iff.1 hdot
    obtain ⟨c, hc, rfl⟩ := takeLastDigit_eq_some_iff.1 hlast
    exact ⟨busText, devText, c, hbusText, hdevText, hc, by simp⟩
  · rintro ⟨busText, devText, c, hbus, hdev, hc, rfl⟩
    have htext : busText ++ [0x3A] ++ devText ++ [0x2E, c] = busText ++ 0x3A :: (devText ++ 0x2E :: [c]) := by simp
    obtain ⟨hcolon, hdot⟩ := hexValue_separators
    simp only [parseId, htext, Option.bind_eq_bind, Option.bind_eq_some_iff, Prod.exists]
    exact ⟨b, _, takeField2_append hbus hcolon, _, takeByte_eq_some_iff.2 rfl, d, _, takeField2_append hdev hdot,
      _, takeByte_eq_some_iff.2 rfl, f, takeLastDigit_eq_some_iff.2 ⟨c, hc, rfl⟩, rfl⟩

theorem textForm_unique {text : List Byte} {b d f b' d' f' : Nat} (h : TextForm text b d f) (h' : TextForm text b' d' f') :
    b = b' ∧ d = d' ∧ f = f' := by
  have hnumbers := (parseId_eq_some_iff.2 h).symm.trans (parseId_eq_some_iff.2 h')
  simpa using hnumbers

theorem hexDigit_le {c : Byte} {v : Nat} (h : HexDigit c v) : v ≤ 15 := by
  unfold HexDigit at h
  omega

theorem textForm_bus_le {text : List Byte} {b d f : Nat} (h : TextForm text b d f) : b ≤ 255 := by
  obtain ⟨busText, -, -, hbus, -, -, -⟩ := h
  rcases hbus with ⟨c, hc, -⟩ | ⟨c, c', x, y, hx, hy, -, rfl⟩
  · exact (hexDigit_le hc).trans (by decide)
  · have hx := hexDigit_le hx
    have hy := hexDigit_le hy
    omega

/-! ## DEVID_PARSE (41_device_id.md R144) -/

theorem devidParse_of_no_form {o : Operands} (h : ∀ b d f, ¬ TextForm o.input b d f) :
    devidParse o = .error ⟨.invalidDeviceIdFormat, .devidString⟩ := by
  have hnone : parseId o.input = none :=
    Option.eq_none_iff_forall_ne_some.2 fun ⟨b, d, f⟩ hsome => h b d f (parseId_eq_some_iff.1 hsome)
  rw [devidParse, hnone]

theorem devidParse_of_textForm {o : Operands} {b d f : Nat} (h : TextForm o.input b d f) :
    devidParse o = checkedId b d f := by
  rw [devidParse, parseId_eq_some_iff.2 h]
  rfl

theorem exec_devidParse {s : State} {r : RequestFile} {text : List Byte} (h : HoldsInput s r text) :
    exec .devidParse s = .next (deliver s (respond (devidParse (operandsOf r)))) ∧ (operandsOf r).input = text :=
  ⟨runCommand_of_holdsLength (holdsLength_of_holdsInput h)
      (by simp [fieldsWritten, operandFields, inBuf_written_of_holdsInput h]),
    (operandsOf_of_holdsInput h).2⟩

/-- Settles O33: the reading fails on a text of no form, and on a text of the form it gives the numbers that are checked. -/
theorem devidParseResult : Obligations.DevidParseResult := by
  intro s r text hin
  obtain ⟨hexec, rfl⟩ := exec_devidParse hin
  refine ⟨fun hnone => ?_, fun b d f hform => ?_⟩
  · rw [devidParse_of_no_form hnone] at hexec
    exact raises_of_deliver hexec
  · rw [devidParse_of_textForm hform] at hexec
    exact checkedId_outcome hexec

/-! ## The canonical text and DEVID_FORMAT (41_device_id.md R145) -/

/-- The model writes the letters from `a` on, the statements from ten below. -/
theorem hexDigit_eq_lowerHex (v : Nat) : hexDigit v = lowerHex v := by
  unfold hexDigit lowerHex
  split_ifs with hlt hle
  · rfl
  · omega
  · omega
  · congr 1
    omega

theorem formatId_eq_canonicalText (v : BitVec 16) : formatId v = canonicalText v := by
  have hbus : v.toNat / 256 / 16 = v.toNat / 4096 := by omega
  have hdevHigh : v.toNat / 8 % 32 / 16 = v.toNat / 128 % 2 := by omega
  have hdevLow : v.toNat / 8 % 32 % 16 = v.toNat / 8 % 16 := by omega
  simp only [formatId, hex2, hexDigit_eq_lowerHex, toNat_busOf, toNat_devOf, toNat_funcOf, hbus, hdevHigh, hdevLow]
  rfl

/-- Settles O34: the command has no check, and the text it writes is the canonical one. -/
theorem devidFormatResult : Obligations.DevidFormatResult := by
  intro s r n v hin hid
  obtain ⟨hexec, hv⟩ := exec_of_id16 (i := .devidFormat) rfl rfl hin hid
  rw [devidFormat, hv, formatId_eq_canonicalText] at hexec
  exact ⟨_, hexec, rfl, readByte_outBytes _⟩

/-- The canonical text of a packed ID, from its components. -/
theorem canonicalText_packId {b d f : Nat} (hb : b ≤ 255) (hd : d ≤ 31) (hf : f ≤ 7) : canonicalText (packId b d f) =
    [lowerHex (b / 16), lowerHex (b % 16), 0x3A, lowerHex (d / 16), lowerHex (d % 16), 0x2E, lowerHex f] := by
  obtain ⟨hbus, hdev, hfunc⟩ := unpack_packId hb hd hf
  rw [← formatId_eq_canonicalText, formatId, hbus, hdev, hfunc]
  simp only [hex2, hexDigit_eq_lowerHex]
  rfl

/-- The digits the canonical text is written with are digits of the form. -/
theorem hexDigit_lowerHex {v : Nat} (h : v ≤ 15) : HexDigit (lowerHex v) v := by
  unfold lowerHex
  split_ifs with hle
  · exact .inl ⟨hle, rfl⟩
  · exact .inr ⟨Nat.lt_of_not_le hle, h, .inl rfl⟩

theorem textForm_lowerHex {a b c d e : Nat} (ha : a ≤ 15) (hb : b ≤ 15) (hc : c ≤ 15) (hd : d ≤ 15) (he : e ≤ 15) :
    TextForm [lowerHex a, lowerHex b, 0x3A, lowerHex c, lowerHex d, 0x2E, lowerHex e] (a * 16 + b) (c * 16 + d) e :=
  ⟨[lowerHex a, lowerHex b], [lowerHex c, lowerHex d], lowerHex e,
    .inr ⟨_, _, a, b, hexDigit_lowerHex ha, hexDigit_lowerHex hb, rfl, rfl⟩,
    .inr ⟨_, _, c, d, hexDigit_lowerHex hc, hexDigit_lowerHex hd, rfl, rfl⟩, hexDigit_lowerHex he, rfl⟩

/-- The canonical text is of the form, with the components of the ID. -/
theorem textForm_canonicalText (v : BitVec 16) :
    TextForm (canonicalText v) (busOf v).toNat (devOf v).toNat (funcOf v).toNat := by
  have hb : (busOf v).toNat < 256 := (busOf v).isLt
  have hd : (devOf v).toNat < 32 := (devOf v).isLt
  have hf : (funcOf v).toNat < 8 := (funcOf v).isLt
  have hform := textForm_lowerHex (a := (busOf v).toNat / 16) (b := (busOf v).toNat % 16) (c := (devOf v).toNat / 16)
    (d := (devOf v).toNat % 16) (e := (funcOf v).toNat) (by omega) (by omega) (by omega) (by omega) (by omega)
  rwa [← canonicalText_packId (by omega) (by omega) (by omega), packId_unpack, Nat.div_add_mod', Nat.div_add_mod'] at hform

/-- Of the texts of an ID the canonical one is that of two lower-case digits, two and one (41_device_id.md R146). -/
theorem canonicalText_eq_iff {text : List Byte} {b d f : Nat} (h : TextForm text b d f) (hd : d ≤ 31) (hf : f ≤ 7) :
    canonicalText (packId b d f) = text ↔ ∃ x₁ x₂ x₃ x₄ x₅, x₁ ≤ 15 ∧ x₂ ≤ 15 ∧ x₃ ≤ 15 ∧ x₄ ≤ 15 ∧ x₅ ≤ 15 ∧
      text = [lowerHex x₁, lowerHex x₂, 0x3A, lowerHex x₃, lowerHex x₄, 0x2E, lowerHex x₅] := by
  have hb := textForm_bus_le h
  rw [canonicalText_packId hb hd hf]
  constructor
  · rintro rfl
    exact ⟨b / 16, b % 16, d / 16, d % 16, f, by omega, by omega, by omega, by omega, by omega, rfl⟩
  · rintro ⟨x₁, x₂, x₃, x₄, x₅, h₁, h₂, h₃, h₄, h₅, rfl⟩
    obtain ⟨rfl, rfl, rfl⟩ := textForm_unique h (textForm_lowerHex h₁ h₂ h₃ h₄ h₅)
    have hdigits : ∀ x y : Nat, y ≤ 15 → (x * 16 + y) / 16 = x ∧ (x * 16 + y) % 16 = y := by omega
    obtain ⟨hbHigh, hbLow⟩ := hdigits x₁ x₂ h₂
    obtain ⟨hdHigh, hdLow⟩ := hdigits x₃ x₄ h₄
    rw [hbHigh, hbLow, hdHigh, hdLow]

/-! ## The four laws (41_device_id.md R146) -/

/-- A response that holds `out` exactly and also `bytes` exactly holds one text. -/
theorem eq_of_outputIs {resp : Response} {out bytes : List Byte} (h : OutputIs resp bytes)
    (hout : ∀ a, readByte resp.outBuf a = out[a]?) : bytes = out :=
  List.ext_getElem? fun k => (h.bytes k).symm.trans (hout k)

theorem not_raises_of_succeeds {o : Host.Outcome State Fault Refusal} {s t : State} {st : Status} {f : ErrField}
    (h : Succeeds o t) (hst : st ≠ .ok) : ¬ Raises s o st f := by
  rintro ⟨t', hnext, hdelivers, -⟩
  obtain ⟨hok, hstatus⟩ := h
  obtain rfl : t' = t := by simpa using hnext.symm.trans hok
  rw [hdelivers] at hstatus
  exact hst (Option.some.inj hstatus)

/-- A DEVID_PARSE that succeeds read a text of the form with a device and a function in range, and gives its packed ID. -/
theorem textForm_of_succeeds {s t : State} {r : RequestFile} {text : List Byte} (hin : HoldsInput s r text)
    (h : Succeeds (exec .devidParse s) t) :
    ∃ b d f, TextForm text b d f ∧ d ≤ 31 ∧ f ≤ 7 ∧ t.resp.id16 = some (packId b d f) := by
  obtain ⟨hsyntax, hnumbers⟩ := devidParseResult s r text hin
  have hform : ∃ b d f, TextForm text b d f := by
    by_contra hnone
    push Not at hnone
    exact not_raises_of_succeeds h (by decide) (hsyntax hnone)
  obtain ⟨b, d, f, hform⟩ := hform
  obtain ⟨hdev, hfunc, hok⟩ := hnumbers b d f hform
  have hd : d ≤ 31 := Nat.not_lt.1 fun hbig => not_raises_of_succeeds h (by decide) (hdev hbig)
  have hf : f ≤ 7 := Nat.not_lt.1 fun hbig => not_raises_of_succeeds h (by decide) (hfunc hd hbig)
  obtain ⟨t', hnext, hdelivers, -⟩ := hok hd hf
  obtain rfl : t' = t := by simpa using hnext.symm.trans h.1
  have hid : t'.resp.id16 = some (idOf b d f) := congrArg (·.resp.id16) hdelivers
  exact ⟨b, d, f, hform, hd, hf, by rw [hid, packId_eq_idOf b hd hf]⟩

/-- DEVID_PARSE of the canonical text of an ID gives the ID. -/
theorem devidParse_canonicalText {s : State} {r : RequestFile} {v : BitVec 16} (hin : HoldsInput s r (canonicalText v)) :
    ∃ t, Succeeds (exec .devidParse s) t ∧ t.resp.id16 = some v := by
  have hd : (devOf v).toNat ≤ 31 := Nat.le_of_lt_succ (devOf v).isLt
  have hf : (funcOf v).toNat ≤ 7 := Nat.le_of_lt_succ (funcOf v).isLt
  obtain ⟨-, hnumbers⟩ := devidParseResult s r _ hin
  obtain ⟨-, -, hok⟩ := hnumbers _ _ _ (textForm_canonicalText v)
  obtain ⟨t, hnext, hdelivers, -⟩ := hok hd hf
  have hstatus : t.resp.status = some .ok := congrArg (·.resp.status) hdelivers
  have hid : t.resp.id16 = some (idOf (busOf v).toNat (devOf v).toNat (funcOf v).toNat) :=
    congrArg (·.resp.id16) hdelivers
  rw [← packId_eq_idOf _ hd hf, packId_unpack] at hid
  exact ⟨t, ⟨hnext, hstatus⟩, hid⟩

/-- DEVID_FORMAT succeeds on every ID and its output is the canonical text. -/
theorem devidFormat_outputIs {s : State} {r : RequestFile} {n : Nat} {v : BitVec 16} (hin : HoldsLength s r n)
    (hid : r.id16 = some v) : ∃ t, Succeeds (exec .devidFormat s) t ∧ OutputIs t.resp (canonicalText v) := by
  obtain ⟨t, hnext, hdelivers, hbytes⟩ := devidFormatResult s r n v hin hid
  have hstatus : t.resp.status = some .ok := congrArg (·.resp.status) hdelivers
  have hlen : t.resp.outLen = some 7 := congrArg (·.resp.outLen) hdelivers
  exact ⟨t, ⟨hnext, hstatus⟩, hlen, (by decide : 7 ≤ 4112), hbytes⟩

/-- Settles O35: the laws of the numbers are those of O30, and the two of the texts put what DEVID_FORMAT writes through the
reading of the form, which has one answer. -/
theorem deviceIdLaws : Obligations.DeviceIdLaws := by
  refine ⟨fun b d f hb hd hf => unpack_packId hb hd hf, packId_unpack,
    fun s t s' r r' n v text hin hid hexec hout hin' => ?_, fun s t s' r r' n text hin hok hin' hid => ?_⟩
  · obtain ⟨t₀, ⟨hnext, -⟩, hcanonical⟩ := devidFormat_outputIs hin hid
    obtain rfl : t₀ = t := by simpa using hnext.symm.trans hexec
    obtain rfl := eq_of_outputIs hout hcanonical.bytes
    exact devidParse_canonicalText hin'
  · obtain ⟨b, d, f, hform, hd, hf, hparsed⟩ := textForm_of_succeeds hin hok
    have hid' : r'.id16 = some (packId b d f) := hid.trans hparsed
    obtain ⟨t', hformat, hcanonical⟩ := devidFormat_outputIs hin' hid'
    exact ⟨t', _, hformat, hid', hcanonical, canonicalText_eq_iff hform hd hf⟩

end Sys2Proof.Proofs
end

section
/-! PROOF. The memory encoders (42_memory_rw.md R160 to R165): the enables of a byte count, the address check, the bytes of the
header they write, and the outcomes that MRD_ENCODE and MWR_ENCODE share. -/

namespace Sys2Proof.Proofs

open Sys2Proof Sys2Proof.Machine Sys2Proof.Safety

/-! ## Byte counts and byte enables (42_memory_rw.md R160 to R162) -/

theorem lowMask_of_maskCount {m : BitVec 4} {k : Nat} (h : maskCount m = some k) : lowMask k = m := by
  rcases maskCount_eq_some h with ⟨rfl, rfl⟩ | ⟨rfl, rfl⟩ | ⟨rfl, rfl⟩ | ⟨rfl, rfl⟩ <;> rfl

/-- CountToBe gives the dwords and the enables of a transfer (30_encoding.md R87, R98, R99). -/
theorem countToBe_eq {n : Nat} (h : 1 ≤ n) : countToBe n = (dwords n, firstEnables n, lastEnables n) := by
  rcases Nat.lt_or_ge 4 n with hlong | hshort
  · have hdwords : ceilDiv n 4 = dwords n := rfl
    have hmany : dwords n ≠ 1 := by unfold dwords; omega
    have hfirst : firstEnables n = 0b1111 := by
      rw [firstEnables, if_neg (by omega), if_neg (by omega), if_neg (by omega)]
    simp only [countToBe, hdwords, hmany, hfirst, if_false, lowMask_of_maskCount (maskCount_lastEnables hlong)]
  · interval_cases n <;> rfl

/-- Settles O36: CountToBe gives the enables of the transfer, which BeToCount counts; and enables that BeToCount counts are
those of the transfer it finds. -/
theorem byteCountsAndEnablesAreInverse : Obligations.ByteCountsAndEnablesAreInverse := by
  refine ⟨fun n hpos _ => ?_, fun L n fbe lbe hL hcount => ?_⟩
  · rw [countToBe_eq hpos]
    exact beToCount_enables hpos
  · obtain ⟨hpos, rfl, rfl, rfl⟩ := enables_of_beToCount hL hcount
    exact countToBe_eq hpos

/-! ## The address check (42_memory_rw.md R163) -/

theorem isBig_eq_needs64 (a : BitVec 64) : isBig a = needs64 a := rfl

theorem aligned_iff (a : BitVec 64) : (a.extractLsb' 0 2 == 0) = true ↔ a.toNat % 4 = 0 := by
  rw [beq_iff_eq, ← BitVec.toNat_inj, BitVec.extractLsb'_toNat, Nat.shiftRight_zero]
  rfl

/-- Where WIDTH_SEL selects a width, AddrCheck takes the aligned addresses that fit it, and says which format they need. -/
theorem addrCheck_cases (a : BitVec 64) {w : BitVec 2} (hw : w ≠ 3) :
    ((a.toNat % 4 = 0 ∧ WidthFits w a) ∧ addrCheck a w = .ok (needs64 a)) ∨
    (¬ (a.toNat % 4 = 0 ∧ WidthFits w a) ∧ addrCheck a w = .error ⟨.invalidAddress, .address⟩) := by
  by_cases haligned : a.toNat % 4 = 0
  · have hwidths : w = 0 ∨ w = 1 ∨ w = 2 := by revert w; decide
    simp only [addrCheck, (aligned_iff a).2 haligned, isBig_eq_needs64]
    rcases hwidths with rfl | rfl | rfl
    · exact .inl ⟨⟨haligned, by simp [WidthFits]⟩, rfl⟩
    · cases hbig : needs64 a with
      | false => exact .inl ⟨⟨haligned, by simp [WidthFits, hbig]⟩, rfl⟩
      | true => exact .inr ⟨by simp [WidthFits, hbig], rfl⟩
    · cases hbig : needs64 a with
      | false => exact .inr ⟨by simp [WidthFits, hbig], rfl⟩
      | true => exact .inl ⟨⟨haligned, by simp [WidthFits, hbig]⟩, rfl⟩
  · have hmisaligned : (a.extractLsb' 0 2 == 0) = false := by rwa [← Bool.not_eq_true, aligned_iff]
    exact .inr ⟨fun h => haligned h.1, by rw [addrCheck, hmisaligned]; rfl⟩

/-! ## The header the encoders write (30_encoding.md R86 to R90) -/

theorem beNat_beBytes (k v : Nat) : beNat (beBytes k v) = v % 256 ^ k := by
  induction k with
  | zero => simp [beBytes, beNat, Nat.mod_one]
  | succ k ih =>
    have hhead : beNat [BitVec.ofNat 8 (v / 256 ^ k)] = v / 256 ^ k % 256 := by simp [beNat]
    rw [beBytes, ← List.singleton_append, beNat_append, hhead, ih, length_beBytes, pow_succ, Nat.mod_mul]
    ring

theorem beNat_be64 (v : BitVec 64) : beNat (be64 v) = v.toNat := by
  have hv := v.isLt
  rw [be64, beNat_append, beNat_be32, beNat_be32]
  simp only [be32, be16, List.cons_append, List.nil_append, List.length_cons, List.length_nil, BitVec.extractLsb'_toNat,
    Nat.shiftRight_eq_div_pow]
  omega

theorem beBytes_eight (v : BitVec 64) : beBytes 8 v.toNat = be64 v := by
  refine eq_of_beNat_eq rfl ?_
  rw [beNat_beBytes, beNat_be64]
  exact Nat.mod_eq_of_lt v.isLt

theorem beBytes_four (v : BitVec 64) : beBytes 4 v.toNat = be32 (v.setWidth 32) := by
  refine eq_of_beNat_eq rfl ?_
  rw [beNat_beBytes, beNat_be32, BitVec.toNat_setWidth]
  rfl

theorem beNat_hdr16 {v : Nat} (h : v < 65536) : beNat (hdr16 v) = v := by
  simp only [hdr16, hdrByte, beNat, List.foldl, BitVec.toNat_ofNat]
  omega

theorem hdr16_toNat (v : BitVec 16) : hdr16 v.toNat = be16 v :=
  eq_of_beNat_eq rfl ((beNat_hdr16 v.isLt).trans (beNat_be16 v).symm)

theorem hdr16_lengthField (L : Nat) : hdr16 (lengthField L) = lengthBytes L := by
  have hlt : lengthField L < 1024 := Nat.mod_lt _ (by decide)
  exact eq_of_beNat_eq rfl ((beNat_hdr16 (by omega)).trans (beNat_lengthBytes L).symm)

theorem hdrByte_enables (l f : BitVec 4) : hdrByte (l.toNat * 16 + f.toNat) = l ++ f := by
  revert l f
  decide

/-- The header the encoders write is the one of the request, with the byte 0 of its Fmt (30_encoding.md R81, R84). -/
theorem memoryHeader_eq (o : Operands) (fmt n : Nat) :
    memoryHeader o fmt (needs64 o.addr) (dwords n) (firstEnables n) (lastEnables n) =
      memoryTlp (hdrByte (fmt * 32)) (hdrByte ((fmt + 1) * 32)) n o.reqId o.tag o.addr := by
  rw [memoryTlp, ← hdr16_lengthField, ← hdr16_toNat, ← hdrByte_enables, ← beBytes_eight, ← beBytes_four]
  cases needs64 o.addr <;> rfl

/-! ## The outcomes both encoders have -/

/-- The checks both memory encoders make of their operands, in their order; `f` names the byte count (42_memory_rw.md R164,
R165). -/
def encoderChecks (w : BitVec 2) (n : Nat) (f : ErrField) (a : BitVec 64) : Except Raise Bool := do
  require (w != 3) .illegalCommand .widthSel
  require (decide (1 ≤ n ∧ n ≤ Config.maxPayloadBytes)) .invalidLength f
  addrCheck a w

/-- What a memory encoder does from `s` with the outcome `o`, where its operands are WIDTH_SEL `w`, `n` bytes, which the field
`f` gives, and the address `a`: the errors in their order, and else the response `resp` with the bytes `out`. -/
def EncoderOutcome (s : State) (o : Host.Outcome State Fault Refusal) (w : BitVec 2) (n : Nat) (f : ErrField) (a : BitVec 64)
    (resp : Response) (out : List Byte) : Prop :=
  (w = 3 → Raises s o .illegalCommand .widthSel) ∧
  (w ≠ 3 → n = 0 ∨ 4096 < n → Raises s o .invalidLength f) ∧
  (w ≠ 3 → 1 ≤ n → n ≤ 4096 → ¬ (a.toNat % 4 = 0 ∧ WidthFits w a) → Raises s o .invalidAddress .address) ∧
  (w ≠ 3 → LegalTransfer n a → WidthFits w a → ∃ t, o = .next t ∧ Delivers s t resp out)

/-- The fields both memory encoders write, OUT_BUF aside (42_memory_rw.md R164, R165). -/
def requestFields (k32 k64 : Kind) (n : Nat) (a : BitVec 64) (out : List Byte) : Response :=
  { okResponse with
    outLen := some (BitVec.ofNat 13 out.length)
    kind := some (if needs64 a then k64 else k32)
    addr64 := some (needs64 a)
    lengthDw := some (BitVec.ofNat 11 (dwords n))
    firstBe := some (firstEnables n)
    lastBe := some (lastEnables n) }

section Encoder

variable {s : State} {w : BitVec 2} {n : Nat} {f : ErrField} {a : BitVec 64}

theorem encoderChecks_of_width_three : encoderChecks 3 n f a = .error ⟨.illegalCommand, .widthSel⟩ := rfl

theorem encoderChecks_of_width (hw : w ≠ 3) : encoderChecks w n f a =
    if 1 ≤ n ∧ n ≤ 4096 then addrCheck a w else .error ⟨.invalidLength, f⟩ := by
  rw [encoderChecks, bne_iff_ne.2 hw, require_true, except_ok_bind, require_decide_bind]
  rfl

/-- An encoder that makes these checks, and answers `g` where they pass, has these outcomes. -/
theorem encoderOutcome_of_checks {o : Host.Outcome State Fault Refusal} {g : Bool → Response} {resp : Response}
    {out : List Byte} (h : o = .next (deliver s (respond (encoderChecks w n f a >>= fun w64 => .ok (g w64)))))
    (hg : 1 ≤ n → succeed (g (needs64 a)) = { resp with outBuf := outBytes out }) : EncoderOutcome s o w n f a resp out := by
  refine ⟨?_, fun hw hn => ?_, fun hw hpos hmax hbad => ?_, fun hw ⟨hpos, hmax, haligned⟩ hfits => ?_⟩
  · rintro rfl
    exact raises_of_deliver h
  · rw [encoderChecks_of_width hw, if_neg (by omega)] at h
    exact raises_of_deliver h
  · obtain ⟨hgood, -⟩ | ⟨-, hcheck⟩ := addrCheck_cases a hw
    · exact absurd hgood hbad
    · rw [encoderChecks_of_width hw, if_pos ⟨hpos, hmax⟩, hcheck] at h
      exact raises_of_deliver h
  · obtain ⟨-, hcheck⟩ | ⟨hbad, -⟩ := addrCheck_cases a hw
    · rw [encoderChecks_of_width hw, if_pos ⟨hpos, hmax⟩, hcheck, except_ok_bind, respond_ok, hg hpos] at h
      exact ⟨_, h, delivers_outBytes s resp out⟩
    · exact absurd ⟨haligned, hfits⟩ hbad

end Encoder

/-- What both encoders write where their checks pass: the header of `n` bytes, with `fmt` the Fmt without its 4DW bit, and behind
it `tail` (42_memory_rw.md R164, R165). -/
def encodedRequest (k32 k64 : Kind) (fmt n : Nat) (tail : List Byte) (o : Operands) (w64 : Bool) : Response :=
  let (L, fbe, lbe) := countToBe n
  memoryEncoded (if w64 then k64 else k32) w64 L fbe lbe (memoryHeader o fmt w64 L fbe lbe ++ tail)

theorem succeed_encodedRequest (k32 k64 : Kind) (fmt : Nat) {n : Nat} (tail : List Byte) (o : Operands) (hpos : 1 ≤ n)
    {out : List Byte} (hout : out = memoryTlp (hdrByte (fmt * 32)) (hdrByte ((fmt + 1) * 32)) n o.reqId o.tag o.addr ++ tail) :
    succeed (encodedRequest k32 k64 fmt n tail o (needs64 o.addr)) =
      { requestFields k32 k64 n o.addr out with outBuf := outBytes out } := by
  rw [hout, ← memoryHeader_eq, encodedRequest, countToBe_eq hpos]
  rfl

/-! ## MRD_ENCODE (42_memory_rw.md R164) -/

theorem mrdEncode_eq (o : Operands) : mrdEncode o =
    (encoderChecks o.widthSel o.byteCount .byteCount o.addr >>= fun w64 =>
      .ok (encodedRequest .mrd32 .mrd64 0b000 o.byteCount [] o w64)) := by
  simp only [encoderChecks, encodedRequest, bind_assoc, List.append_nil]
  rfl

theorem mrdEncode_outcome {s : State} {r : RequestFile} {m : Nat} {id : BitVec 16} {tag : Byte} {a : BitVec 64}
    {w : BitVec 2} {c : BitVec 13} (h : HoldsLength s r m) (hid : r.reqId = some id) (htag : r.tag = some tag)
    (haddr : r.addr = some a) (hw : r.widthSel = some w) (hc : r.byteCount = some c) :
    EncoderOutcome s (exec .mrdEncode s) w c.toNat .byteCount a
      (requestFields .mrd32 .mrd64 c.toNat a (readTlp c.toNat id tag a)) (readTlp c.toNat id tag a) := by
  have hexec : exec .mrdEncode s = .next (deliver s (respond (mrdEncode (operandsOf r)))) :=
    runCommand_of_holdsLength h (by simp [fieldsWritten, operandFields, fieldWritten, hid, htag, haddr, hw, hc])
  have hoperands : (operandsOf r).reqId = id ∧ (operandsOf r).tag = tag ∧ (operandsOf r).addr = a ∧
      (operandsOf r).widthSel = w ∧ (operandsOf r).byteCount = c.toNat := by
    simp [operandsOf, hid, htag, haddr, hw, hc]
  obtain ⟨rfl, rfl, rfl, rfl, hcount⟩ := hoperands
  rw [mrdEncode_eq, hcount] at hexec
  exact encoderOutcome_of_checks hexec fun hpos => succeed_encodedRequest _ _ _ _ _ hpos readTlp_eq

theorem length_readTlp (n : Nat) (id : BitVec 16) (tag : Byte) (a : BitVec 64) :
    (readTlp n id tag a).length = if needs64 a then 16 else 12 := length_memoryTlp

/-- Settles O37: the outcomes of the shared checks, with the read request as what they let through. -/
theorem mrdEncodeResult : Obligations.MrdEncodeResult := by
  intro s r m id tag a w c hin hid htag haddr hw hc
  have houtcome := mrdEncode_outcome hin hid htag haddr hw hc
  have hlen : BitVec.ofNat 13 (readTlp c.toNat id tag a).length = if needs64 a then 16 else 12 := by
    rw [length_readTlp]
    split <;> rfl
  rw [requestFields, hlen] at houtcome
  exact houtcome

/-! ## MWR_ENCODE (42_memory_rw.md R165) -/

theorem mwrEncode_eq (o : Operands) : mwrEncode o =
    (encoderChecks o.widthSel o.inLen .payload o.addr >>= fun w64 =>
      .ok (encodedRequest .mwr32 .mwr64 0b010 o.inLen (inBytes o.input 0 o.inLen ++ writePad o.inLen) o w64)) := by
  have hpad : writePad o.inLen = zeroBytes (4 * (countToBe o.inLen).1 - o.inLen) := by
    rw [countToBe_dwords]
    rfl
  simp only [encoderChecks, encodedRequest, bind_assoc, hpad, ← List.append_assoc]
  rfl

theorem mwrEncode_outcome {s : State} {r : RequestFile} {payload : List Byte} {id : BitVec 16} {tag : Byte} {a : BitVec 64}
    {w : BitVec 2} (h : HoldsInput s r payload) (hid : r.reqId = some id) (htag : r.tag = some tag)
    (haddr : r.addr = some a) (hw : r.widthSel = some w) :
    EncoderOutcome s (exec .mwrEncode s) w payload.length .payload a
      (requestFields .mwr32 .mwr64 payload.length a (writeTlp payload id tag a)) (writeTlp payload id tag a) := by
  have hinBuf : bytesWritten r.inBuf 0 (meaningfulBytes r) = true := inBuf_written_of_holdsInput h
  have hexec : exec .mwrEncode s = .next (deliver s (respond (mwrEncode (operandsOf r)))) :=
    runCommand_of_holdsLength (holdsLength_of_holdsInput h)
      (by simp [fieldsWritten, operandFields, fieldWritten, hid, htag, haddr, hw, hinBuf])
  have hoperands : (operandsOf r).reqId = id ∧ (operandsOf r).tag = tag ∧ (operandsOf r).addr = a ∧
      (operandsOf r).widthSel = w := by
    simp [operandsOf, hid, htag, haddr, hw]
  obtain ⟨rfl, rfl, rfl, rfl⟩ := hoperands
  obtain ⟨hlen, hinput⟩ := operandsOf_of_holdsInput h
  have hpayload : inBytes payload 0 payload.length = payload := by simp [inBytes]
  rw [mwrEncode_eq, hlen, hinput, hpayload] at hexec
  exact encoderOutcome_of_checks hexec fun hpos => succeed_encodedRequest _ _ _ _ _ hpos writeTlp_eq

theorem length_writeTlp (payload : List Byte) (id : BitVec 16) (tag : Byte) (a : BitVec 64) :
    (writeTlp payload id tag a).length = (if needs64 a then 16 else 12) + 4 * dwords payload.length := by
  rw [writeTlp_eq, List.length_append, length_memoryTlp, length_payload_writePad]

/-- Settles O38: the outcomes of the shared checks, with the write request as what they let through. -/
theorem mwrEncodeResult : Obligations.MwrEncodeResult := by
  intro s r payload id tag a w hin hid htag haddr hw
  have houtcome := mwrEncode_outcome hin hid htag haddr hw
  rw [requestFields, length_writeTlp] at houtcome
  exact houtcome

end Sys2Proof.Proofs
end

section
/-! PROOF. The round trips of the memory commands (42_memory_rw.md R168): an encoder that succeeds wrote the request of a legal
transfer, which its decoder reads; a decoder that succeeds read one, which its encoder writes. -/

namespace Sys2Proof.Proofs

open Sys2Proof Sys2Proof.Machine Sys2Proof.Safety

/-! ## What a success says -/

/-- WIDTH_SEL = AUTO fits every address (30_encoding.md R112). -/
theorem widthFits_auto (a : BitVec 64) : WidthFits 0 a := ⟨fun h => absurd h (by decide), fun h => absurd h (by decide)⟩

/-- An operation has one next state. -/
theorem delivers_of_succeeds {o : Host.Outcome State Fault Refusal} {s t : State} {resp : Response} {out : List Byte}
    (hs : Succeeds o t) (h : ∃ t', o = .next t' ∧ Delivers s t' resp out) : Delivers s t resp out := by
  obtain ⟨t', hnext, hdelivers⟩ := h
  obtain ⟨hok, -⟩ := hs
  obtain rfl : t' = t := by simpa using hnext.symm.trans hok
  exact hdelivers

section Encoder

variable {s : State} {o : Host.Outcome State Fault Refusal} {n : Nat} {f : ErrField} {a : BitVec 64} {resp : Response}
  {out : List Byte}

/-- An encoder succeeds with AUTO on legal transfers only. -/
theorem EncoderOutcome.legal {t : State} (h : EncoderOutcome s o 0 n f a resp out) (hs : Succeeds o t) :
    LegalTransfer n a ∧ Delivers s t resp out := by
  obtain ⟨-, hcount, haddress, hok⟩ := h
  have hauto : (0 : BitVec 2) ≠ 3 := by decide
  have hrange : 1 ≤ n ∧ n ≤ 4096 := by
    by_contra hbad
    exact not_raises_of_succeeds hs (by decide) (hcount hauto (by omega))
  have haligned : a.toNat % 4 = 0 := by
    by_contra hbad
    exact not_raises_of_succeeds hs (by decide) (haddress hauto hrange.1 hrange.2 fun hfits => hbad hfits.1)
  have hlegal : LegalTransfer n a := ⟨hrange.1, hrange.2, haligned⟩
  exact ⟨hlegal, delivers_of_succeeds hs (hok hauto hlegal (widthFits_auto a))⟩

/-- On a legal transfer an encoder succeeds with AUTO, and its output is the request. -/
theorem EncoderOutcome.writes {k32 k64 : Kind} (h : EncoderOutcome s o 0 n f a (requestFields k32 k64 n a out) out)
    (hlegal : LegalTransfer n a) (hlen : out.length ≤ 4112) : ∃ t, Succeeds o t ∧ OutputIs t.resp out := by
  obtain ⟨-, -, -, hok⟩ := h
  obtain ⟨t, hnext, hdelivers, hbytes⟩ := hok (by decide) hlegal (widthFits_auto a)
  have hstatus : t.resp.status = some .ok := congrArg (·.resp.status) hdelivers
  have houtLen : t.resp.outLen = some (BitVec.ofNat 13 out.length) := congrArg (·.resp.outLen) hdelivers
  exact ⟨t, ⟨hnext, hstatus⟩, houtLen, hlen, hbytes⟩

end Encoder

/-- An operation that answers was given every field it reads besides the buffer (10_state.md R25). -/
theorem fieldWritten_of_succeeds {i : Instr} {s t : State} {r : RequestFile} (hr : s.captured = some r)
    (h : Succeeds (exec i s) t) : ∀ f ∈ operandFields i, fieldWritten r f = true := by
  obtain ⟨hnext, -⟩ := h
  obtain ⟨r', -, hr', hw, -⟩ := exec_next hnext
  obtain rfl : r = r' := Option.some.inj (hr.symm.trans hr')
  exact fun f hf => List.all_eq_true.1 hw f (List.mem_append_right _ hf)

/-! ## Memory Read -/

/-- An MRD_ENCODE that succeeds with AUTO wrote the read request of its operands. -/
theorem readTlp_of_mrdEncode {s t : State} {r : RequestFile} {m : Nat} {out : List Byte} (hin : HoldsLength s r m)
    (hw : r.widthSel = some 0) (hs : Succeeds (exec .mrdEncode s) t) (hout : OutputIs t.resp out) :
    ∃ id tag a, ∃ c : BitVec 13, r.reqId = some id ∧ r.tag = some tag ∧ r.addr = some a ∧ r.byteCount = some c ∧
      LegalTransfer c.toNat a ∧ out = readTlp c.toNat id tag a := by
  have hwritten := fieldWritten_of_succeeds hin.captured hs
  obtain ⟨id, hid⟩ := Option.isSome_iff_exists.1 (hwritten .reqId (by decide))
  obtain ⟨tag, htag⟩ := Option.isSome_iff_exists.1 (hwritten .tag (by decide))
  obtain ⟨a, ha⟩ := Option.isSome_iff_exists.1 (hwritten .addr (by decide))
  obtain ⟨c, hc⟩ := Option.isSome_iff_exists.1 (hwritten .byteCount (by decide))
  obtain ⟨hlegal, -, hbytes⟩ := (mrdEncode_outcome hin hid htag ha hw hc).legal hs
  exact ⟨id, tag, a, c, hid, htag, ha, hc, hlegal, eq_of_outputIs hout hbytes⟩

/-- An MRD_DECODE that succeeds read a read request and answers its fields. -/
theorem readTlp_of_succeeds {s t : State} {r : RequestFile} {bytes : List Byte} (hin : HoldsInput s r bytes)
    (hs : Succeeds (exec .mrdDecode s) t) : ∃ n id tag a, LegalTransfer n a ∧ bytes = readTlp n id tag a ∧
      Delivers s t (readFields n id tag a) [] := by
  obtain ⟨n, id, tag, a, hlegal, rfl⟩ := mrdDecodeAcceptsOnlyReadRequests s t r bytes hin hs
  exact ⟨n, id, tag, a, hlegal, rfl, delivers_of_succeeds hs (mrdDecodeDeliversReadRequests s r n id tag a hlegal hin)⟩

theorem mrdDecode_of_mrdEncode {s t s' : State} {r r' : RequestFile} {m : Nat} {out : List Byte} (hin : HoldsLength s r m)
    (hw : r.widthSel = some 0) (hs : Succeeds (exec .mrdEncode s) t) (hout : OutputIs t.resp out)
    (hin' : HoldsInput s' r' out) : ∃ t', Succeeds (exec .mrdDecode s') t' ∧ t'.resp.reqId = r.reqId ∧
      t'.resp.tag = r.tag ∧ t'.resp.addr = r.addr ∧ t'.resp.byteCount = r.byteCount := by
  obtain ⟨id, tag, a, c, hid, htag, ha, hc, hlegal, rfl⟩ := readTlp_of_mrdEncode hin hw hs hout
  obtain ⟨t', hnext, hdelivers, -⟩ := mrdDecodeDeliversReadRequests s' r' _ id tag a hlegal hin'
  have hcount : BitVec.ofNat 13 c.toNat = c := by rw [BitVec.ofNat_toNat, BitVec.setWidth_eq]
  rw [hid, htag, ha, hc, ← hcount]
  exact ⟨t', ⟨hnext, congrArg (·.resp.status) hdelivers⟩, congrArg (·.resp.reqId) hdelivers,
    congrArg (·.resp.tag) hdelivers, congrArg (·.resp.addr) hdelivers, congrArg (·.resp.byteCount) hdelivers⟩

theorem mrdEncode_of_mrdDecode {s t s' : State} {r r' : RequestFile} {m : Nat} {bytes : List Byte}
    (hin : HoldsInput s r bytes) (hs : Succeeds (exec .mrdDecode s) t) (hin' : HoldsLength s' r' m)
    (hid : r'.reqId = t.resp.reqId) (htag : r'.tag = t.resp.tag) (haddr : r'.addr = t.resp.addr)
    (hc : r'.byteCount = t.resp.byteCount) (hw : r'.widthSel = some 0) :
    ∃ t', Succeeds (exec .mrdEncode s') t' ∧ OutputIs t'.resp bytes := by
  obtain ⟨n, id, tag, a, hlegal, rfl, hdelivers, -⟩ := readTlp_of_succeeds hin hs
  have hcount : (BitVec.ofNat 13 n).toNat = n := by
    obtain ⟨-, hmax, -⟩ := hlegal
    exact Nat.mod_eq_of_lt (by omega)
  have houtcome := mrdEncode_outcome hin' (hid.trans (congrArg (·.resp.reqId) hdelivers))
    (htag.trans (congrArg (·.resp.tag) hdelivers)) (haddr.trans (congrArg (·.resp.addr) hdelivers)) hw
    (hc.trans (congrArg (·.resp.byteCount) hdelivers))
  rw [hcount] at houtcome
  exact houtcome.writes hlegal hin.bound

/-! ## Memory Write -/

/-- An MWR_ENCODE that succeeds with AUTO wrote the write request of its operands. -/
theorem writeTlp_of_mwrEncode {s t : State} {r : RequestFile} {payload out : List Byte} (hin : HoldsInput s r payload)
    (hw : r.widthSel = some 0) (hs : Succeeds (exec .mwrEncode s) t) (hout : OutputIs t.resp out) :
    ∃ id tag a, r.reqId = some id ∧ r.tag = some tag ∧ r.addr = some a ∧ LegalTransfer payload.length a ∧
      out = writeTlp payload id tag a := by
  have hwritten := fieldWritten_of_succeeds hin.captured hs
  obtain ⟨id, hid⟩ := Option.isSome_iff_exists.1 (hwritten .reqId (by decide))
  obtain ⟨tag, htag⟩ := Option.isSome_iff_exists.1 (hwritten .tag (by decide))
  obtain ⟨a, ha⟩ := Option.isSome_iff_exists.1 (hwritten .addr (by decide))
  obtain ⟨hlegal, -, hbytes⟩ := (mwrEncode_outcome hin hid htag ha hw).legal hs
  exact ⟨id, tag, a, hid, htag, ha, hlegal, eq_of_outputIs hout hbytes⟩

/-- An MWR_DECODE that succeeds read a write request and answers its fields and its payload. -/
theorem writeTlp_of_succeeds {s t : State} {r : RequestFile} {bytes : List Byte} (hin : HoldsInput s r bytes)
    (hs : Succeeds (exec .mwrDecode s) t) : ∃ payload id tag a, LegalTransfer payload.length a ∧
      bytes = writeTlp payload id tag a ∧ Delivers s t (writeFields payload id tag a) payload := by
  obtain ⟨payload, id, tag, a, hlegal, rfl⟩ := mwrDecodeAcceptsOnlyWriteRequests s t r bytes hin hs
  exact ⟨payload, id, tag, a, hlegal, rfl,
    delivers_of_succeeds hs (mwrDecodeDeliversWriteRequests s r payload id tag a hlegal hin)⟩

theorem mwrDecode_of_mwrEncode {s t s' : State} {r r' : RequestFile} {payload out : List Byte}
    (hin : HoldsInput s r payload) (hw : r.widthSel = some 0) (hs : Succeeds (exec .mwrEncode s) t)
    (hout : OutputIs t.resp out) (hin' : HoldsInput s' r' out) : ∃ t', Succeeds (exec .mwrDecode s') t' ∧
      t'.resp.reqId = r.reqId ∧ t'.resp.tag = r.tag ∧ t'.resp.addr = r.addr ∧ t'.resp.byteCount = r.inLen ∧
      OutputIs t'.resp payload := by
  obtain ⟨id, tag, a, hid, htag, ha, hlegal, rfl⟩ := writeTlp_of_mwrEncode hin hw hs hout
  obtain ⟨t', hnext, hdelivers, hbytes⟩ := mwrDecodeDeliversWriteRequests s' r' payload id tag a hlegal hin'
  rw [hid, htag, ha, hin.len]
  exact ⟨t', ⟨hnext, congrArg (·.resp.status) hdelivers⟩, congrArg (·.resp.reqId) hdelivers,
    congrArg (·.resp.tag) hdelivers, congrArg (·.resp.addr) hdelivers, congrArg (·.resp.byteCount) hdelivers,
    congrArg (·.resp.outLen) hdelivers, hin.bound, hbytes⟩

theorem mwrEncode_of_mwrDecode {s t s' : State} {r r' : RequestFile} {bytes payload : List Byte}
    (hin : HoldsInput s r bytes) (hs : Succeeds (exec .mwrDecode s) t) (hout : OutputIs t.resp payload)
    (hin' : HoldsInput s' r' payload) (hid : r'.reqId = t.resp.reqId) (htag : r'.tag = t.resp.tag)
    (haddr : r'.addr = t.resp.addr) (hw : r'.widthSel = some 0) :
    ∃ t', Succeeds (exec .mwrEncode s') t' ∧ OutputIs t'.resp bytes := by
  obtain ⟨sent, id, tag, a, hlegal, rfl, hdelivers, hbytes⟩ := writeTlp_of_succeeds hin hs
  obtain rfl := eq_of_outputIs hout hbytes
  have houtcome := mwrEncode_outcome hin' (hid.trans (congrArg (·.resp.reqId) hdelivers))
    (htag.trans (congrArg (·.resp.tag) hdelivers)) (haddr.trans (congrArg (·.resp.addr) hdelivers)) hw
  exact houtcome.writes hlegal hin.bound

/-- Settles O43: the decoder's answer on a request that was written, and the encoder's on one that was read. -/
theorem memoryRoundTrip : Obligations.MemoryRoundTrip :=
  ⟨fun _ _ _ _ _ _ _ => mrdDecode_of_mrdEncode, fun _ _ _ _ _ _ _ => mwrDecode_of_mwrEncode,
    fun _ _ _ _ _ _ _ => mrdEncode_of_mrdDecode, fun _ _ _ _ _ _ _ => mwrEncode_of_mwrDecode⟩

end Sys2Proof.Proofs
end

section
/-! PROOF. CPL_ENCODE (43_completion.md R190 to R192): its checks as one case distinction, the bytes of the header it writes,
and what each check reports. -/

namespace Sys2Proof.Proofs

open Sys2Proof Sys2Proof.Machine Sys2Proof.Safety

/-! ## The checks of CPL_ENCODE (43_completion.md R192) -/

/-- What CPL_ENCODE does with a payload, once the status and the byte count are checked. -/
def encodedWithData (o : Operands) : Except Raise Response :=
  if 1 ≤ o.inLen ∧ o.inLen ≤ 4096 ∧ o.inLen % 4 = 0 then
    if o.inLen / 4 ≤ (o.lowerAddr.toNat % 4 + o.byteCount + 3) / 4 then
      .ok (completionEncoded .cplD (o.inLen / 4)
        (completionHeader o 0b010 (o.inLen / 4) ++ inBytes o.input 0 (4 * (o.inLen / 4))))
    else .error ⟨.lengthMismatch, .byteCount⟩
  else .error ⟨.invalidLength, .payload⟩

/-- What CPL_ENCODE does for a Cpl, once the status and the byte count are checked. -/
def encodedWithoutData (o : Operands) : Except Raise Response :=
  if o.inLen = 0 then .ok (completionEncoded .cpl 0 (completionHeader o 0b000 0))
  else .error ⟨.lengthMismatch, .payload⟩

theorem cplEncode_eq_require_bind (o : Operands) : cplEncode o =
    (require (statusOk o.cplStatus) .invalidCompletionStatus .cplStatus >>= fun _ =>
      if 1 ≤ o.byteCount ∧ o.byteCount ≤ 4096 then
        if o.hasData then encodedWithData o else encodedWithoutData o
      else .error ⟨.invalidLength, .byteCount⟩) := by
  have hcount : (o.inLen == 0) = decide (o.inLen = 0) := rfl
  simp only [cplEncode, countConsistent, hcount, require_decide_bind]
  rfl

theorem cplEncode_of_reserved {o : Operands} (hst : ¬ LegalStatus o.cplStatus) :
    cplEncode o = .error ⟨.invalidCompletionStatus, .cplStatus⟩ := by
  rw [← statusOk_iff, Bool.not_eq_true] at hst
  rw [cplEncode_eq_require_bind, hst, require_false, except_error_bind]

theorem cplEncode_of_legalStatus {o : Operands} (hst : LegalStatus o.cplStatus) : cplEncode o =
    if 1 ≤ o.byteCount ∧ o.byteCount ≤ 4096 then
      if o.hasData then encodedWithData o else encodedWithoutData o
    else .error ⟨.invalidLength, .byteCount⟩ := by
  rw [cplEncode_eq_require_bind, statusOk_iff.2 hst, require_true, except_ok_bind]

/-! ## The header CPL_ENCODE writes (30_encoding.md R91, R92) -/

theorem hdrByte_lowerAddr (la : BitVec 7) : hdrByte la.toNat = 0#1 ++ la := by
  revert la
  decide

/-- Bytes 6 and 7: the status, BCM = 0 and the Byte Count field. -/
theorem statusBytes_eq_be16 (st : BitVec 3) (bc : Nat) :
    [hdrByte (st.toNat * 32 + byteCountField bc / 256), hdrByte (byteCountField bc % 256)] =
      be16 (st ++ 0#1 ++ BitVec.ofNat 12 bc) := by
  refine eq_of_beNat_eq rfl ?_
  have hst := st.isLt
  have hfield : byteCountField bc = bc % 4096 := rfl
  rw [beNat_be16, toNat_append_eq_add, toNat_append_eq_add]
  simp only [beNat, List.foldl, hdrByte, BitVec.toNat_ofNat, hfield]
  omega

theorem completionHeader_eq (o : Operands) (fmt L : Nat) : completionHeader o fmt L =
    completionTlp (hdrByte (fmt * 32 + 0b01010)) L o.cplId o.cplStatus o.byteCount o.reqId o.tag o.lowerAddr := by
  rw [completionTlp, ← hdr16_lengthField, ← hdr16_toNat, ← statusBytes_eq_be16, ← hdr16_toNat,
    ← hdrByte_lowerAddr]
  rfl

/-! ## The outcomes of CPL_ENCODE -/

section Outcomes

variable {s : State} {out : Host.Outcome State Fault Refusal} {o : Operands}

/-- With a payload: its length is checked, then whether it reaches past the byte count (43_completion.md R191, R192). -/
theorem encodedWithData_outcome (hlen : o.inLen = o.input.length)
    (h : out = .next (deliver s (respond (encodedWithData o)))) :
    (o.input.length = 0 ∨ 4096 < o.input.length ∨ o.input.length % 4 ≠ 0 → Raises s out .invalidLength .payload) ∧
    (1 ≤ o.input.length → o.input.length ≤ 4096 → o.input.length % 4 = 0 →
      (o.lowerAddr.toNat % 4 + o.byteCount + 3) / 4 < o.input.length / 4 → Raises s out .lengthMismatch .byteCount) ∧
    (LegalCplData o.byteCount o.lowerAddr o.input → ∃ t, out = .next t ∧ Delivers s t { okResponse with
        outLen := some (BitVec.ofNat 13 (12 + o.input.length))
        kind := some .cplD
        lengthDw := some (BitVec.ofNat 11 (o.input.length / 4)) }
      (cplDTlp o.cplId o.cplStatus o.byteCount o.reqId o.tag o.lowerAddr o.input)) := by
  rw [encodedWithData, hlen] at h
  refine ⟨fun hbad => ?_, fun hone hmany hdword hshort => ?_, fun ⟨hone, hmany, hdword, hreach⟩ => ?_⟩
  · rw [if_neg (by omega)] at h
    exact raises_of_deliver h
  · rw [if_pos ⟨hone, hmany, hdword⟩, if_neg (Nat.not_le.2 hshort)] at h
    exact raises_of_deliver h
  · have hbytes : inBytes o.input 0 (4 * (o.input.length / 4)) = o.input := by
      rw [Nat.mul_div_cancel' (Nat.dvd_of_mod_eq_zero hdword)]
      simp [inBytes]
    rw [if_pos ⟨hone, hmany, hdword⟩, if_pos hreach, completionHeader_eq, hbytes, respond_ok, completionEncoded,
      List.length_append, length_completionTlp] at h
    exact ⟨_, h, rfl, readByte_outBytes _⟩

/-- Without a payload: IN_LEN has to be 0 (43_completion.md R192). -/
theorem encodedWithoutData_outcome (hlen : o.inLen = o.input.length)
    (h : out = .next (deliver s (respond (encodedWithoutData o)))) :
    (o.input ≠ [] → Raises s out .lengthMismatch .payload) ∧
    (o.input = [] → ∃ t, out = .next t ∧ Delivers s t { okResponse with
        outLen := some 12
        kind := some .cpl
        lengthDw := some 0 } (cplTlp o.cplId o.cplStatus o.byteCount o.reqId o.tag o.lowerAddr)) := by
  rw [encodedWithoutData, hlen] at h
  refine ⟨fun hsome => ?_, fun hnone => ?_⟩
  · rw [if_neg (mt List.length_eq_zero_iff.1 hsome)] at h
    exact raises_of_deliver h
  · rw [if_pos (List.length_eq_zero_iff.2 hnone), completionHeader_eq] at h
    exact ⟨_, h, rfl, readByte_outBytes _⟩

end Outcomes

theorem exec_cplEncode_of_holdsLength {s : State} {r : RequestFile} {n : Nat} (h : HoldsLength s r n)
    (hw : fieldsWritten r (operandFields .cplEncode) = true) :
    exec .cplEncode s = .next (deliver s (respond (cplEncode (operandsOf r)))) :=
  runCommand_of_holdsLength h hw

/-- Settles O44: the status is checked first, then the byte count, and then the payload as HAS_DATA asks. -/
theorem cplEncodeResult : Obligations.CplEncodeResult := by
  intro s r payload cid id st c tag la d hin hcid hid hst hc htag hla hd
  have hwritten : fieldsWritten r (operandFields .cplEncode) = true := by
    have hinBuf : bytesWritten r.inBuf 0 (meaningfulBytes r) = true := inBuf_written_of_holdsInput hin
    simp [fieldsWritten, operandFields, fieldWritten, hcid, hid, hst, hc, htag, hla, hd, hinBuf]
  have hexec := exec_cplEncode_of_holdsLength (holdsLength_of_holdsInput hin) hwritten
  have hoperands : (operandsOf r).cplId = cid ∧ (operandsOf r).reqId = id ∧ (operandsOf r).cplStatus = st ∧
      (operandsOf r).tag = tag ∧ (operandsOf r).lowerAddr = la ∧ (operandsOf r).hasData = d ∧
      c.toNat = (operandsOf r).byteCount := by
    simp [operandsOf, hcid, hid, hst, hc, htag, hla, hd]
  obtain ⟨rfl, rfl, rfl, rfl, rfl, rfl, hcount⟩ := hoperands
  obtain ⟨hlen, rfl⟩ := operandsOf_of_holdsInput hin
  rw [hcount]
  refine ⟨fun hst => ?_, fun hst hbad => ?_, fun hst hpos hmax hdata => ?_, fun hst hpos hmax hdata => ?_⟩
  · rw [cplEncode_of_reserved hst] at hexec
    exact raises_of_deliver hexec
  · rw [cplEncode_of_legalStatus hst, if_neg (by omega)] at hexec
    exact raises_of_deliver hexec
  · rw [cplEncode_of_legalStatus hst, if_pos ⟨hpos, hmax⟩, if_pos hdata] at hexec
    exact encodedWithData_outcome hlen hexec
  · rw [cplEncode_of_legalStatus hst, if_pos ⟨hpos, hmax⟩, if_neg (Bool.not_eq_true _ ▸ hdata)] at hexec
    exact encodedWithoutData_outcome hlen hexec

end Sys2Proof.Proofs
end

section
/-! PROOF. A reserved completion status (43_completion.md R190): the check that reports it is the encoder's first and the
decoder's next after its must-be-zero bits, and no other check of the two names CPL_STATUS. -/

namespace Sys2Proof.Proofs

open Sys2Proof Sys2Proof.Machine Sys2Proof.Safety

theorem legalStatus_iff_mem {st : BitVec 3} : LegalStatus st ↔ st ∈ [0b000#3, 0b001#3, 0b010#3, 0b100#3] := by
  simp [LegalStatus]

/-! ## The field an error names -/

/-- Where the pseudocode raises an error, its field is not `f`. -/
def NeverNames {α : Type} (f : ErrField) (x : Except Raise α) : Prop := ∀ e, x = .error e → e.field ≠ f

theorem neverNames_ok {α : Type} {f : ErrField} (a : α) : NeverNames f (.ok a) := by
  rintro _ ⟨⟩

theorem neverNames_error {α : Type} {f g : ErrField} {st : Status} (h : g ≠ f := by decide) :
    NeverNames f (.error ⟨st, g⟩ : Except Raise α) := by
  rintro _ ⟨⟩
  exact h

theorem NeverNames.bind {α β : Type} {f : ErrField} {x : Except Raise α} {k : α → Except Raise β} (hx : NeverNames f x)
    (hk : ∀ a, NeverNames f (k a)) : NeverNames f (x >>= k) := by
  cases x with
  | ok a => exact hk a
  | error e =>
    rintro _ ⟨⟩
    exact hx e rfl

theorem neverNames_require {c : Bool} {f g : ErrField} {st : Status} (h : g ≠ f := by decide) :
    NeverNames f (require c st g) := by
  cases c with
  | true => exact neverNames_ok ()
  | false => exact neverNames_error h

theorem NeverNames.check {α : Type} {c : Bool} {f g : ErrField} {st : Status} {k : Unit → Except Raise α}
    (hk : NeverNames f (k ())) (h : g ≠ f := by decide) : NeverNames f (require c st g >>= k) :=
  (neverNames_require h).bind fun _ => hk

/-- The response of an operation that never names `f` does not hold it in ERR_FIELD: a success names NONE. -/
theorem NeverNames.respond {f : ErrField} {x : Except Raise Response} (hx : NeverNames f x) (hf : f ≠ .noField := by decide) :
    (respond x).errField ≠ some f := by
  cases x with
  | ok resp => exact fun h => hf (Option.some.inj h).symm
  | error e => exact fun h => hx e rfl (Option.some.inj h)

/-! ## The encoder -/

theorem neverNames_cplEncode {o : Operands} (hst : LegalStatus o.cplStatus) : NeverNames .cplStatus (cplEncode o) := by
  rw [cplEncode_of_legalStatus hst, encodedWithData, encodedWithoutData]
  split_ifs
  case pos | pos => exact neverNames_ok _
  case neg | neg | neg | neg => exact neverNames_error

/-! ## The decoder -/

theorem neverNames_checkPayload (tlp : List Byte) (hdr need : Nat) : NeverNames .cplStatus (checkPayload tlp hdr need) :=
  .check neverNames_require

theorem neverNames_cplDecode {tlp : List Byte} (hst : LegalStatus (cplStatusOf tlp)) :
    NeverNames .cplStatus (cplDecode tlp) := by
  rw [cplDecode, cplDecodeAs, statusOk_iff.2 hst, require_true, except_ok_bind]
  refine .bind (.check (.check neverNames_require)) fun _ => .check ?_
  split_ifs
  · exact (neverNames_checkPayload _ _ _).bind fun _ => .check (neverNames_ok _)
  · exact .check ((neverNames_checkPayload _ _ _).bind fun _ => neverNames_ok _)

/-- A completion with its must-be-zero bits clear and a reserved status is refused for the status (43_completion.md R193). -/
theorem cplDecode_of_reserved {tlp : List Byte} (hlen : 12 ≤ tlp.length) (hkind : acceptsCpl (kindOf (byteAt tlp 0)) = true)
    (hmbz : mbzClear (kindOf (byteAt tlp 0)) tlp = true) (hst : ¬ LegalStatus (cplStatusOf tlp)) :
    cplDecode tlp = .error ⟨.invalidCompletionStatus, .cplStatus⟩ := by
  obtain ⟨-, hfmt, -⟩ := byteZero_of_acceptsCpl _ hkind
  have hhdr : headerBytes tlp = 12 := by rw [headerBytes, hfmt]; rfl
  rw [← statusOk_iff, Bool.not_eq_true] at hst
  rw [cplDecode, cplDecodeAs, decodePrologue_of_shortHeader hkind hhdr hlen, except_ok_bind, (checkMbz_ok (u := ())).2 hmbz,
    except_ok_bind, hst, require_false, except_error_bind]

theorem mbzClear_of_acceptsCpl {tlp : List Byte} (hkind : acceptsCpl (kindOf (byteAt tlp 0)) = true)
    (h1 : byteAt tlp 1 = 0) (h2 : byteAt tlp 2 &&& 0xFC = 0) (h6 : byteAt tlp 6 &&& 0x10 = 0)
    (h11 : byteAt tlp 11 &&& 0x80 = 0) : mbzClear (kindOf (byteAt tlp 0)) tlp = true := by
  obtain ⟨-, -, hmasks⟩ := byteZero_of_acceptsCpl _ hkind
  simpa [mbzClear, mbzMasks, hmasks, h1] using And.intro h2 ⟨h6, h11⟩

/-! ## Both commands -/

/-- Settles O47: the status check is the one that fails, or none names CPL_STATUS. -/
theorem reservedCompletionStatusIsRejected : Obligations.ReservedCompletionStatusIsRejected := by
  refine ⟨fun s r st hr hw ⟨l, hl, hmax⟩ hst => ?_, fun s r bytes hin hlen hbyte0 h1 h2 h6 h11 => ?_⟩
  · have hwritten := List.all_eq_true.1 hw
    have hoperands : fieldsWritten r (operandFields .cplEncode) = true :=
      List.all_eq_true.2 fun f hf => hwritten f (List.mem_append_right _ hf)
    have hexec := exec_cplEncode_of_holdsLength ⟨hr, hwritten .cmd (by decide), ⟨l, hl, rfl⟩, hmax⟩ hoperands
    obtain rfl : (operandsOf r).cplStatus = st := by rw [operandsOf, hst]; rfl
    refine ⟨fun hreserved => ?_, fun hlegal =>
      ⟨_, hexec, (neverNames_cplEncode (legalStatus_iff_mem.2 hlegal)).respond⟩⟩
    rw [cplEncode_of_reserved (mt legalStatus_iff_mem.1 hreserved)] at hexec
    exact raises_of_deliver hexec
  · have hexec : exec .cplDecode s = .next (deliver s (respond (cplDecode bytes))) :=
      runCommand_of_holdsInput (f := fun bytes => respond (cplDecode bytes)) hin rfl
    have hkind : acceptsCpl (kindOf (byteAt bytes 0)) = true := by
      rcases hbyte0 with h | h <;> rw [show byteAt bytes 0 = _ from h] <;> decide
    refine ⟨fun hreserved => ?_, fun hlegal =>
      ⟨_, hexec, (neverNames_cplDecode (legalStatus_iff_mem.2 hlegal)).respond⟩⟩
    rw [cplDecode_of_reserved hlen hkind (mbzClear_of_acceptsCpl hkind h1 h2 h6 h11)
      (mt legalStatus_iff_mem.1 hreserved)] at hexec
    exact raises_of_deliver hexec

end Sys2Proof.Proofs
end

section
/-! PROOF. The round trips of the completion commands (43_completion.md R194): a CPL_ENCODE that succeeds wrote a legal
completion, which CPL_DECODE reads; a CPL_DECODE that succeeds read one, which CPL_ENCODE writes. -/

namespace Sys2Proof.Proofs

open Sys2Proof Sys2Proof.Machine Sys2Proof.Safety

/-! ## Completions, with and without data -/

/-- What a completion is built of: the fields CPL_ENCODE reads and CPL_DECODE writes, and the payload (43_completion.md R192,
R193). -/
structure Completion where
  cplId : BitVec 16
  status : BitVec 3
  count : BitVec 13
  reqId : BitVec 16
  tag : Byte
  lowerAddr : BitVec 7
  hasData : Bool
  payload : List Byte

namespace Completion

/-- The Cpl or CplD (30_encoding.md R91, R92). -/
def tlp (c : Completion) : List Byte :=
  if c.hasData then cplDTlp c.cplId c.status c.count.toNat c.reqId c.tag c.lowerAddr c.payload
  else cplTlp c.cplId c.status c.count.toNat c.reqId c.tag c.lowerAddr

/-- What both commands check (43_completion.md R190 to R193). -/
structure Legal (c : Completion) : Prop where
  status : LegalStatus c.status
  pos : 1 ≤ c.count.toNat
  max : c.count.toNat ≤ 4096
  payload : if c.hasData then LegalCplData c.count.toNat c.lowerAddr c.payload else c.payload = []

/-- The request fields that ask CPL_ENCODE for the completion; its payload is the buffer (43_completion.md R192). -/
structure AskedBy (c : Completion) (r : RequestFile) : Prop where
  cplId : r.cplId = some c.cplId
  status : r.cplStatus = some c.status
  count : r.byteCount = some c.count
  reqId : r.reqId = some c.reqId
  tag : r.tag = some c.tag
  lowerAddr : r.lowerAddr = some c.lowerAddr
  hasData : r.hasData = some c.hasData

/-- The fields CPL_DECODE writes, OUT_BUF aside (43_completion.md R193). -/
def fields (c : Completion) : Response :=
  cplFields c.hasData c.cplId c.status c.count.toNat c.reqId c.tag c.lowerAddr c.payload

/-- The fields CPL_ENCODE writes, OUT_BUF aside (43_completion.md R192). -/
def encodedFields (c : Completion) : Response :=
  { okResponse with
    outLen := some (BitVec.ofNat 13 (12 + c.payload.length))
    kind := some (if c.hasData then .cplD else .cpl)
    lengthDw := some (BitVec.ofNat 11 (c.payload.length / 4)) }

theorem fields_byteCount (c : Completion) : c.fields.byteCount = some c.count := by
  rw [fields, cplFields, BitVec.ofNat_toNat, BitVec.setWidth_eq]

theorem Legal.length_tlp {c : Completion} (h : c.Legal) : c.tlp.length = 12 + c.payload.length := by
  have hpayload := h.payload
  rw [tlp]
  split_ifs at hpayload ⊢
  · rw [cplDTlp_eq, List.length_append, length_completionTlp]
  · rw [hpayload]
    rfl

/-- The Length field of a CplD is its payload in dwords (30_encoding.md R87; 43_completion.md R194). -/
theorem Legal.lengthDwords_tlp {c : Completion} (h : c.Legal) (hdata : c.hasData = true) :
    lengthDwords c.tlp = c.payload.length / 4 ∧ c.payload.length % 4 = 0 := by
  have hpayload := h.payload
  rw [if_pos hdata] at hpayload
  obtain ⟨hone, hmany, hdword, -⟩ := hpayload
  have hhigh := toNat_lengthByte_lt (c.payload.length / 4)
  have hbits : lengthBits c.tlp = c.payload.length / 4 % 1024 := by
    rw [tlp, if_pos hdata, ← beNat_lengthBytes (c.payload.length / 4), lengthBytes, be16]
    simp only [beNat, List.foldl, Nat.zero_mul, Nat.zero_add]
    rw [← Nat.mod_eq_of_lt hhigh]
    rfl
  refine ⟨?_, hdword⟩
  rw [lengthDwords, hbits]
  split <;> omega

end Completion

/-! ## CPL_ENCODE -/

section Encoder

variable {s t : State} {r : RequestFile} {c : Completion}

/-- CPL_ENCODE writes every legal completion that it is asked for. -/
theorem cplEncode_delivers (hin : HoldsInput s r c.payload) (hask : c.AskedBy r) (h : c.Legal) :
    ∃ t, exec .cplEncode s = .next t ∧ Delivers s t c.encodedFields c.tlp := by
  obtain ⟨cid, st, bc, id, tag, la, d, payload⟩ := c
  obtain ⟨hcid, hst, hbc, hid, htag, hla, hd⟩ := hask
  obtain ⟨hlegal, hpos, hmax, hpayload⟩ := h
  obtain ⟨-, -, hcplD, hcpl⟩ := cplEncodeResult s r payload cid id st bc tag la d hin hcid hid hst hbc htag hla hd
  cases d with
  | true =>
    obtain ⟨-, -, hdelivers⟩ := hcplD hlegal hpos hmax rfl
    exact hdelivers hpayload
  | false =>
    obtain ⟨-, hdelivers⟩ := hcpl hlegal hpos hmax rfl
    obtain rfl : payload = [] := hpayload
    have hfields : (⟨cid, st, bc, id, tag, la, false, []⟩ : Completion).encodedFields =
        { okResponse with outLen := some 12, kind := some .cpl, lengthDw := some 0 } := by
      simp [Completion.encodedFields]
    rw [hfields]
    exact hdelivers rfl

/-- A CPL_ENCODE that succeeds was asked for a legal completion: each way to be none raises an error. -/
theorem legal_of_succeeds (hin : HoldsInput s r c.payload) (hask : c.AskedBy r) (hs : Succeeds (exec .cplEncode s) t) :
    c.Legal := by
  obtain ⟨cid, st, bc, id, tag, la, d, payload⟩ := c
  obtain ⟨hcid, hst, hbc, hid, htag, hla, hd⟩ := hask
  obtain ⟨hstatus, hcount, hcplD, hcpl⟩ :=
    cplEncodeResult s r payload cid id st bc tag la d hin hcid hid hst hbc htag hla hd
  have hlegal : LegalStatus st := by
    by_contra hbad
    exact not_raises_of_succeeds hs (by decide) (hstatus hbad)
  obtain ⟨hpos, hmax⟩ : 1 ≤ bc.toNat ∧ bc.toNat ≤ 4096 := by
    by_contra hbad
    exact not_raises_of_succeeds hs (by decide) (hcount hlegal (by omega))
  refine ⟨hlegal, hpos, hmax, ?_⟩
  cases d with
  | true =>
    obtain ⟨hlength, hreach, -⟩ := hcplD hlegal hpos hmax rfl
    obtain ⟨hone, hmany, hdword⟩ : 1 ≤ payload.length ∧ payload.length ≤ 4096 ∧ payload.length % 4 = 0 := by
      by_contra hbad
      exact not_raises_of_succeeds hs (by decide) (hlength (by omega))
    exact ⟨hone, hmany, hdword, Nat.not_lt.1 fun hbad =>
      not_raises_of_succeeds hs (by decide) (hreach hone hmany hdword hbad)⟩
  | false =>
    obtain ⟨hempty, -⟩ := hcpl hlegal hpos hmax rfl
    by_contra hbad
    exact not_raises_of_succeeds hs (by decide) (hempty hbad)

/-- A CPL_ENCODE that succeeds was given every field of a completion. -/
theorem askedBy_of_succeeds {payload : List Byte} (hin : HoldsInput s r payload) (hs : Succeeds (exec .cplEncode s) t) :
    ∃ c : Completion, c.AskedBy r ∧ c.payload = payload := by
  have hwritten := fieldWritten_of_succeeds hin.captured hs
  obtain ⟨cid, hcid⟩ := Option.isSome_iff_exists.1 (hwritten .cplId (by decide))
  obtain ⟨st, hst⟩ := Option.isSome_iff_exists.1 (hwritten .cplStatus (by decide))
  obtain ⟨bc, hbc⟩ := Option.isSome_iff_exists.1 (hwritten .byteCount (by decide))
  obtain ⟨id, hid⟩ := Option.isSome_iff_exists.1 (hwritten .reqId (by decide))
  obtain ⟨tag, htag⟩ := Option.isSome_iff_exists.1 (hwritten .tag (by decide))
  obtain ⟨la, hla⟩ := Option.isSome_iff_exists.1 (hwritten .lowerAddr (by decide))
  obtain ⟨d, hd⟩ := Option.isSome_iff_exists.1 (hwritten .hasData (by decide))
  exact ⟨⟨cid, st, bc, id, tag, la, d, payload⟩, ⟨hcid, hst, hbc, hid, htag, hla, hd⟩, rfl⟩

/-- A CPL_ENCODE that succeeds wrote the legal completion of its operands. -/
theorem completion_of_cplEncode {payload out : List Byte} (hin : HoldsInput s r payload)
    (hs : Succeeds (exec .cplEncode s) t) (hout : OutputIs t.resp out) :
    ∃ c : Completion, c.AskedBy r ∧ c.Legal ∧ c.payload = payload ∧ out = c.tlp := by
  obtain ⟨c, hask, rfl⟩ := askedBy_of_succeeds hin hs
  have hlegal := legal_of_succeeds hin hask hs
  obtain ⟨-, hbytes⟩ := delivers_of_succeeds hs (cplEncode_delivers hin hask hlegal)
  exact ⟨c, hask, hlegal, rfl, eq_of_outputIs hout hbytes⟩

end Encoder

/-! ## CPL_DECODE -/

section Decoder

variable {s t : State} {r : RequestFile}

/-- CPL_DECODE reads every legal completion and answers its fields and its payload. -/
theorem cplDecode_delivers {c : Completion} (h : c.Legal) (hin : HoldsInput s r c.tlp) :
    ∃ t, exec .cplDecode s = .next t ∧ Delivers s t c.fields c.payload := by
  obtain ⟨cid, st, bc, id, tag, la, d, payload⟩ := c
  obtain ⟨hst, hpos, hmax, hpayload⟩ := h
  obtain ⟨hcpl, hcplD⟩ := cplDecodeDeliversCompletions s r cid id st bc.toNat tag la payload hst hpos hmax
  cases d with
  | true => exact hcplD hpayload hin
  | false =>
    obtain rfl : payload = [] := hpayload
    exact hcpl hin

/-- A CPL_DECODE that succeeds read a legal completion. -/
theorem completion_of_succeeds {bytes : List Byte} (hin : HoldsInput s r bytes) (hs : Succeeds (exec .cplDecode s) t) :
    ∃ c : Completion, c.Legal ∧ bytes = c.tlp ∧ Delivers s t c.fields c.payload := by
  obtain ⟨cid, st, bc, id, tag, la, payload, hst, hpos, hmax, hbytes⟩ :=
    cplDecodeAcceptsOnlyCompletions s t r bytes hin hs
  obtain ⟨count, rfl⟩ : ∃ count : BitVec 13, count.toNat = bc :=
    ⟨BitVec.ofNat 13 bc, Nat.mod_eq_of_lt (by omega)⟩
  have hlegal : ∃ c : Completion, c.Legal ∧ bytes = c.tlp := by
    obtain rfl | ⟨hdata, rfl⟩ := hbytes
    · exact ⟨⟨cid, st, count, id, tag, la, false, []⟩, ⟨hst, hpos, hmax, rfl⟩, rfl⟩
    · exact ⟨⟨cid, st, count, id, tag, la, true, payload⟩, ⟨hst, hpos, hmax, hdata⟩, rfl⟩
  obtain ⟨c, hc, rfl⟩ := hlegal
  exact ⟨c, hc, rfl, delivers_of_succeeds hs (cplDecode_delivers hc hin)⟩

end Decoder

/-! ## The two round trips -/

theorem cplDecode_of_cplEncode {s t s' : State} {r r' : RequestFile} {payload out : List Byte} (hin : HoldsInput s r payload)
    (hs : Succeeds (exec .cplEncode s) t) (hout : OutputIs t.resp out) (hin' : HoldsInput s' r' out) :
    (r.hasData = some true → lengthDwords out = payload.length / 4 ∧ payload.length % 4 = 0) ∧
    ∃ t', Succeeds (exec .cplDecode s') t' ∧ t'.resp.cplId = r.cplId ∧ t'.resp.cplStatus = r.cplStatus ∧
      t'.resp.byteCount = r.byteCount ∧ t'.resp.reqId = r.reqId ∧ t'.resp.tag = r.tag ∧
      t'.resp.lowerAddr = r.lowerAddr ∧ t'.resp.hasData = r.hasData ∧ OutputIs t'.resp payload := by
  obtain ⟨c, hask, hlegal, rfl, rfl⟩ := completion_of_cplEncode hin hs hout
  obtain ⟨t', hnext, hdelivers, hbytes⟩ := cplDecode_delivers hlegal hin'
  refine ⟨fun hdata => hlegal.lengthDwords_tlp (Option.some.inj (hask.hasData.symm.trans hdata)), t', ?_⟩
  rw [hask.cplId, hask.status, hask.count, hask.reqId, hask.tag, hask.lowerAddr, hask.hasData, ← c.fields_byteCount]
  exact ⟨⟨hnext, congrArg (·.resp.status) hdelivers⟩, congrArg (·.resp.cplId) hdelivers,
    congrArg (·.resp.cplStatus) hdelivers, congrArg (·.resp.byteCount) hdelivers, congrArg (·.resp.reqId) hdelivers,
    congrArg (·.resp.tag) hdelivers, congrArg (·.resp.lowerAddr) hdelivers, congrArg (·.resp.hasData) hdelivers,
    congrArg (·.resp.outLen) hdelivers, hin.bound, hbytes⟩

theorem cplEncode_of_cplDecode {s t s' : State} {r r' : RequestFile} {bytes payload : List Byte}
    (hin : HoldsInput s r bytes) (hs : Succeeds (exec .cplDecode s) t) (hout : OutputIs t.resp payload)
    (hin' : HoldsInput s' r' payload) (hcid : r'.cplId = t.resp.cplId) (hst : r'.cplStatus = t.resp.cplStatus)
    (hcount : r'.byteCount = t.resp.byteCount) (hid : r'.reqId = t.resp.reqId) (htag : r'.tag = t.resp.tag)
    (hla : r'.lowerAddr = t.resp.lowerAddr) (hd : r'.hasData = t.resp.hasData) :
    ∃ t', Succeeds (exec .cplEncode s') t' ∧ OutputIs t'.resp bytes := by
  obtain ⟨c, hlegal, rfl, hdelivers, hbytes⟩ := completion_of_succeeds hin hs
  obtain rfl := eq_of_outputIs hout hbytes
  have hask : c.AskedBy r' := {
    cplId := hcid.trans (congrArg (·.resp.cplId) hdelivers)
    status := hst.trans (congrArg (·.resp.cplStatus) hdelivers)
    count := (hcount.trans (congrArg (·.resp.byteCount) hdelivers)).trans c.fields_byteCount
    reqId := hid.trans (congrArg (·.resp.reqId) hdelivers)
    tag := htag.trans (congrArg (·.resp.tag) hdelivers)
    lowerAddr := hla.trans (congrArg (·.resp.lowerAddr) hdelivers)
    hasData := hd.trans (congrArg (·.resp.hasData) hdelivers) }
  obtain ⟨t', hnext, hsent, houtBytes⟩ := cplEncode_delivers hin' hask hlegal
  refine ⟨t', ⟨hnext, congrArg (·.resp.status) hsent⟩, ?_, hin.bound, houtBytes⟩
  rw [hlegal.length_tlp]
  exact congrArg (·.resp.outLen) hsent

/-- Settles O48: the decoder's answer on a completion that was written, and the encoder's on one that was read. -/
theorem completionRoundTrip : Obligations.CompletionRoundTrip :=
  ⟨fun _ _ _ _ _ _ _ => cplDecode_of_cplEncode, fun _ _ _ _ _ _ _ => cplEncode_of_cplDecode⟩

end Sys2Proof.Proofs
end

section
/-! PROOF. CFG_ENCODE (44_config.md R210): its checks as one case distinction, the bytes of the header it writes, and what each
check reports. -/

namespace Sys2Proof.Proofs

open Sys2Proof Sys2Proof.Machine Sys2Proof.Safety

/-! ## The checks of CFG_ENCODE (44_config.md R210) -/

/-- CFG_ENCODE's checks: the register index, and then the payload as CFG_WRITE asks. -/
theorem cfgEncode_eq (o : Operands) : cfgEncode o =
    if o.regIndex ≤ 1023 then
      if o.cfgWrite then
        if o.inLen = 4 then .ok (configEncoded (configKind true o.cfgType) (configHeader o 0b010 ++ inBytes o.input 0 4))
        else .error ⟨.invalidLength, .payload⟩
      else if o.inLen = 0 then .ok (configEncoded (configKind false o.cfgType) (configHeader o 0b000))
      else .error ⟨.lengthMismatch, .payload⟩
    else .error ⟨.invalidAddress, .regIndex⟩ := by
  have hlen : ∀ n, (o.inLen == n) = decide (o.inLen = n) := fun _ => rfl
  simp only [cfgEncode, hlen, require_decide_bind]
  rfl

/-! ## The header CFG_ENCODE writes (30_encoding.md R93, R94, R102) -/

/-- Byte 0 of a configuration request, from its Fmt (010 with a payload, else 000) and its Type. -/
theorem hdrByte_cfgByte0 (type1 : Bool) : hdrByte (0b010 * 32 + 0b00100 + type1.toNat) = cfgByte0 type1 true ∧
    hdrByte (0b000 * 32 + 0b00100 + type1.toNat) = cfgByte0 type1 false := by
  revert type1
  decide

theorem hdrByte_enable (be : BitVec 4) : hdrByte be.toNat = 0#4 ++ be := by
  revert be
  decide

/-- Byte 10: four reserved bits and the Extended Register Number. -/
theorem hdrByte_extReg (reg : BitVec 10) : hdrByte (reg.toNat / 64) = 0#4 ++ reg.extractLsb' 6 4 := by
  have hreg := reg.isLt
  apply BitVec.eq_of_toNat_eq
  rw [toNat_append_eq_add, BitVec.extractLsb'_toNat, Nat.shiftRight_eq_div_pow, hdrByte, BitVec.toNat_ofNat,
    BitVec.toNat_ofNat]
  omega

/-- Byte 11: the Register Number and two reserved bits. -/
theorem hdrByte_regNum (reg : BitVec 10) : hdrByte (reg.toNat % 64 * 4) = reg.extractLsb' 0 6 ++ 0#2 := by
  apply BitVec.eq_of_toNat_eq
  rw [toNat_append_eq_add, BitVec.extractLsb'_toNat, Nat.shiftRight_zero, hdrByte, BitVec.toNat_ofNat,
    BitVec.toNat_ofNat]
  omega

theorem configHeader_eq {o : Operands} {reg : BitVec 10} (hreg : o.regIndex = reg.toNat) (fmt : Nat) : configHeader o fmt =
    configTlp (hdrByte (fmt * 32 + 0b00100 + o.cfgType.toNat)) o.reqId o.tag o.tgtId reg o.firstBe := by
  rw [configTlp, ← hdr16_toNat, ← hdr16_toNat, ← hdrByte_enable, ← hdrByte_extReg, ← hdrByte_regNum, ← hreg]
  rfl

/-- CFG_ENCODE writes the configuration request of its operands where the payload is a write's or a read's. -/
theorem cfgEncode_of_legalPayload {o : Operands} {reg : BitVec 10} (hlen : o.inLen = o.input.length)
    (hreg : o.regIndex = reg.toNat) (h : LegalCfgPayload o.cfgWrite o.input) : cfgEncode o =
      .ok (configEncoded (cfgKind o.cfgType o.cfgWrite)
        (cfgTlp o.cfgType o.cfgWrite o.reqId o.tag o.tgtId reg o.firstBe o.input)) := by
  have hrange : o.regIndex ≤ 1023 := by
    have hlt := reg.isLt
    omega
  obtain ⟨hwriteByte, hreadByte⟩ := hdrByte_cfgByte0 o.cfgType
  rw [cfgEncode_eq, if_pos hrange, configHeader_eq hreg, configHeader_eq hreg, hwriteByte, hreadByte, cfgTlp_eq, hlen]
  cases hw : o.cfgWrite with
  | true =>
    have hfour : o.input.length = 4 := by rwa [hw] at h
    have hpayload : inBytes o.input 0 4 = o.input := by rw [← hfour]; simp [inBytes]
    rw [if_pos rfl, if_pos hfour, hpayload]
    rfl
  | false =>
    have hnone : o.input.length = 0 := by rwa [hw] at h
    rw [if_neg Bool.false_ne_true, if_pos hnone, List.length_eq_zero_iff.1 hnone, List.append_nil]
    rfl

/-! ## The outcomes of CFG_ENCODE -/

/-- Settles O49: the index is checked first, and then the payload; the request is what the checks let through. -/
theorem cfgEncodeResult : Obligations.CfgEncodeResult := by
  intro s r payload type1 write id tgt reg tag be hin htype hwrite hid htag htgt hreg hbe
  have hwritten : fieldsWritten r (operandFields .cfgEncode) = true := by
    have hinBuf : bytesWritten r.inBuf 0 (meaningfulBytes r) = true := inBuf_written_of_holdsInput hin
    simp [fieldsWritten, operandFields, fieldWritten, htype, hwrite, hid, htag, htgt, hreg, hbe, hinBuf]
  have hexec : exec .cfgEncode s = .next (deliver s (respond (cfgEncode (operandsOf r)))) :=
    runCommand_of_holdsLength (holdsLength_of_holdsInput hin) hwritten
  have hoperands : (operandsOf r).cfgType = type1 ∧ (operandsOf r).cfgWrite = write ∧ (operandsOf r).reqId = id ∧
      (operandsOf r).tag = tag ∧ (operandsOf r).tgtId = tgt ∧ (operandsOf r).firstBe = be ∧
      (operandsOf r).regIndex = reg.toNat := by
    simp [operandsOf, htype, hwrite, hid, htag, htgt, hreg, hbe]
  obtain ⟨rfl, rfl, rfl, rfl, rfl, rfl, hindex⟩ := hoperands
  obtain ⟨hlen, rfl⟩ := operandsOf_of_holdsInput hin
  refine ⟨fun hbig => ?_, fun hrange hw hbad => ?_, fun hrange hr hbad => ?_, fun hrange hlegal => ?_⟩
  · rw [cfgEncode_eq, hindex, if_neg (Nat.not_le.2 hbig)] at hexec
    exact raises_of_deliver hexec
  · rw [cfgEncode_eq, hindex, if_pos hrange, if_pos hw, hlen, if_neg hbad] at hexec
    exact raises_of_deliver hexec
  · rw [cfgEncode_eq, hindex, if_pos hrange, if_neg (Bool.not_eq_true _ ▸ hr), hlen, if_neg hbad] at hexec
    exact raises_of_deliver hexec
  · have hnarrow : (operandsOf r).regIndex = (reg.setWidth 10).toNat := by
      rw [hindex, BitVec.toNat_setWidth]
      exact (Nat.mod_eq_of_lt (by omega)).symm
    rw [cfgEncode_of_legalPayload hlen hnarrow hlegal, respond_ok, configEncoded, cfgTlp_eq, List.length_append,
      length_configTlp] at hexec
    exact ⟨_, hexec, rfl, readByte_outBytes _⟩

end Sys2Proof.Proofs
end

section
/-! PROOF. The round trips of the configuration commands (44_config.md R212): a CFG_ENCODE that succeeds wrote a configuration
request, which CFG_DECODE reads; a CFG_DECODE that succeeds read one, which CFG_ENCODE writes; and every decode splits the
register index. -/

namespace Sys2Proof.Proofs

open Sys2Proof Sys2Proof.Machine Sys2Proof.Safety

/-! ## Configuration requests -/

/-- What a configuration request is built of: the fields CFG_ENCODE reads and CFG_DECODE writes, and the payload
(44_config.md R210, R211). -/
structure Configuration where
  type1 : Bool
  write : Bool
  reqId : BitVec 16
  tag : Byte
  tgtId : BitVec 16
  reg : BitVec 10
  firstBe : BitVec 4
  payload : List Byte

namespace Configuration

/-- The configuration request (30_encoding.md R93, R94). -/
def tlp (c : Configuration) : List Byte := cfgTlp c.type1 c.write c.reqId c.tag c.tgtId c.reg c.firstBe c.payload

/-- The payload is a write's or a read's (30_encoding.md R94). -/
def Legal (c : Configuration) : Prop := LegalCfgPayload c.write c.payload

/-- The request fields that ask CFG_ENCODE for the configuration request; its payload is the buffer. REG_INDEX of a request is
wider than the 10 bits a TLP holds, so it is compared as a number (44_config.md R210). -/
structure AskedBy (c : Configuration) (r : RequestFile) : Prop where
  type1 : r.cfgType = some c.type1
  write : r.cfgWrite = some c.write
  reqId : r.reqId = some c.reqId
  tag : r.tag = some c.tag
  tgtId : r.tgtId = some c.tgtId
  reg : r.regIndex.map BitVec.toNat = some c.reg.toNat
  firstBe : r.firstBe = some c.firstBe

/-- The fields CFG_DECODE writes, OUT_BUF aside (44_config.md R211). -/
def fields (c : Configuration) : Response :=
  cfgFields c.type1 c.write c.reqId c.tag c.tgtId c.reg c.firstBe c.payload

/-- The fields CFG_ENCODE writes, OUT_BUF aside (44_config.md R210). -/
def encodedFields (c : Configuration) : Response :=
  { okResponse with
    outLen := some (BitVec.ofNat 13 c.tlp.length)
    kind := some (cfgKind c.type1 c.write)
    lengthDw := some 1 }

theorem length_tlp (c : Configuration) : c.tlp.length = 12 + c.payload.length := by
  rw [tlp, cfgTlp_eq, List.length_append, length_configTlp]

end Configuration

/-! ## CFG_ENCODE -/

section Encoder

variable {s t : State} {r : RequestFile}

/-- CFG_ENCODE writes every configuration request that it is asked for. -/
theorem cfgEncode_delivers {c : Configuration} (hin : HoldsInput s r c.payload) (hask : c.AskedBy r) (h : c.Legal) :
    ∃ t, exec .cfgEncode s = .next t ∧ Delivers s t c.encodedFields c.tlp := by
  obtain ⟨htype, hwrite, hid, htag, htgt, hreg, hbe⟩ := hask
  obtain ⟨wide, hwide, hnumber⟩ := Option.map_eq_some_iff.1 hreg
  have hrange : wide.toNat ≤ 1023 := by
    have hlt := c.reg.isLt
    omega
  have hnarrow : wide.setWidth 10 = c.reg := by
    apply BitVec.eq_of_toNat_eq
    rw [BitVec.toNat_setWidth, hnumber]
    exact Nat.mod_eq_of_lt c.reg.isLt
  obtain ⟨-, -, -, hok⟩ := cfgEncodeResult s r c.payload c.type1 c.write c.reqId c.tgtId wide c.tag c.firstBe hin htype hwrite
    hid htag htgt hwide hbe
  rw [Configuration.encodedFields, c.length_tlp, Configuration.tlp, ← hnarrow]
  exact hok hrange h

/-- A CFG_ENCODE that succeeds was asked for a configuration request: each way to be none raises an error. -/
theorem askedBy_of_cfgEncode {payload : List Byte} (hin : HoldsInput s r payload) (hs : Succeeds (exec .cfgEncode s) t) :
    ∃ c : Configuration, c.AskedBy r ∧ c.Legal ∧ c.payload = payload := by
  have hwritten := fieldWritten_of_succeeds hin.captured hs
  obtain ⟨type1, htype⟩ := Option.isSome_iff_exists.1 (hwritten .cfgType (by decide))
  obtain ⟨write, hwrite⟩ := Option.isSome_iff_exists.1 (hwritten .cfgWrite (by decide))
  obtain ⟨id, hid⟩ := Option.isSome_iff_exists.1 (hwritten .reqId (by decide))
  obtain ⟨tag, htag⟩ := Option.isSome_iff_exists.1 (hwritten .tag (by decide))
  obtain ⟨tgt, htgt⟩ := Option.isSome_iff_exists.1 (hwritten .tgtId (by decide))
  obtain ⟨reg, hreg⟩ := Option.isSome_iff_exists.1 (hwritten .regIndex (by decide))
  obtain ⟨be, hbe⟩ := Option.isSome_iff_exists.1 (hwritten .firstBe (by decide))
  obtain ⟨hindex, hwritePayload, hreadPayload, -⟩ :=
    cfgEncodeResult s r payload type1 write id tgt reg tag be hin htype hwrite hid htag htgt hreg hbe
  have hrange : reg.toNat ≤ 1023 := Nat.not_lt.1 fun hbig => not_raises_of_succeeds hs (by decide) (hindex hbig)
  have hlegal : LegalCfgPayload write payload := by
    by_contra hbad
    cases write with
    | true => exact not_raises_of_succeeds hs (by decide) (hwritePayload hrange rfl hbad)
    | false => exact not_raises_of_succeeds hs (by decide) (hreadPayload hrange rfl hbad)
  have hnumber : r.regIndex.map BitVec.toNat = some (reg.setWidth 10).toNat := by
    rw [hreg, BitVec.toNat_setWidth, Nat.mod_eq_of_lt (Nat.lt_succ_of_le hrange)]
    rfl
  exact ⟨⟨type1, write, id, tag, tgt, reg.setWidth 10, be, payload⟩, ⟨htype, hwrite, hid, htag, htgt, hnumber, hbe⟩, hlegal,
    rfl⟩

end Encoder

/-! ## CFG_DECODE -/

section Decoder

variable {s t : State} {r : RequestFile}

/-- CFG_DECODE reads every configuration request and answers its fields and its payload. -/
theorem cfgDecode_delivers {c : Configuration} (h : c.Legal) (hin : HoldsInput s r c.tlp) :
    ∃ t, exec .cfgDecode s = .next t ∧ Delivers s t c.fields c.payload :=
  cfgDecodeDeliversConfigRequests s r c.type1 c.write c.reqId c.tgtId c.tag c.reg c.firstBe c.payload h hin

/-- A CFG_DECODE that succeeds read a configuration request and answers its fields and its payload. -/
theorem configuration_of_cfgDecode {bytes : List Byte} (hin : HoldsInput s r bytes) (hs : Succeeds (exec .cfgDecode s) t) :
    ∃ c : Configuration, c.Legal ∧ bytes = c.tlp ∧ Delivers s t c.fields c.payload := by
  obtain ⟨type1, write, id, tag, tgt, reg, be, payload, hlegal, rfl⟩ := cfgDecodeAcceptsOnlyConfigRequests s t r bytes hin hs
  exact ⟨⟨type1, write, id, tag, tgt, reg, be, payload⟩, hlegal, rfl, delivers_of_succeeds hs (cfgDecode_delivers hlegal hin)⟩

end Decoder

/-! ## The two round trips -/

theorem cfgDecode_of_cfgEncode {s t s' : State} {r r' : RequestFile} {payload out : List Byte} (hin : HoldsInput s r payload)
    (hs : Succeeds (exec .cfgEncode s) t) (hout : OutputIs t.resp out) (hin' : HoldsInput s' r' out) :
    ∃ t', Succeeds (exec .cfgDecode s') t' ∧ t'.resp.cfgType = r.cfgType ∧ t'.resp.cfgWrite = r.cfgWrite ∧
      t'.resp.reqId = r.reqId ∧ t'.resp.tag = r.tag ∧ t'.resp.tgtId = r.tgtId ∧
      t'.resp.regIndex.map BitVec.toNat = r.regIndex.map BitVec.toNat ∧ t'.resp.firstBe = r.firstBe ∧
      OutputIs t'.resp payload := by
  obtain ⟨c, hask, hlegal, rfl⟩ := askedBy_of_cfgEncode hin hs
  obtain ⟨-, hsent⟩ := delivers_of_succeeds hs (cfgEncode_delivers hin hask hlegal)
  obtain rfl := eq_of_outputIs hout hsent
  obtain ⟨t', hnext, hdelivers, hbytes⟩ := cfgDecode_delivers hlegal hin'
  rw [hask.type1, hask.write, hask.reqId, hask.tag, hask.tgtId, hask.reg, hask.firstBe]
  exact ⟨t', ⟨hnext, congrArg (·.resp.status) hdelivers⟩, congrArg (·.resp.cfgType) hdelivers,
    congrArg (·.resp.cfgWrite) hdelivers, congrArg (·.resp.reqId) hdelivers, congrArg (·.resp.tag) hdelivers,
    congrArg (·.resp.tgtId) hdelivers, congrArg (·.resp.regIndex.map BitVec.toNat) hdelivers,
    congrArg (·.resp.firstBe) hdelivers, congrArg (·.resp.outLen) hdelivers, hin.bound, hbytes⟩

theorem cfgEncode_of_cfgDecode {s t s' : State} {r r' : RequestFile} {bytes payload : List Byte}
    (hin : HoldsInput s r bytes) (hs : Succeeds (exec .cfgDecode s) t) (hout : OutputIs t.resp payload)
    (hin' : HoldsInput s' r' payload) (htype : r'.cfgType = t.resp.cfgType) (hwrite : r'.cfgWrite = t.resp.cfgWrite)
    (hid : r'.reqId = t.resp.reqId) (htag : r'.tag = t.resp.tag) (htgt : r'.tgtId = t.resp.tgtId)
    (hreg : r'.regIndex.map BitVec.toNat = t.resp.regIndex.map BitVec.toNat) (hbe : r'.firstBe = t.resp.firstBe) :
    ∃ t', Succeeds (exec .cfgEncode s') t' ∧ OutputIs t'.resp bytes := by
  obtain ⟨c, hlegal, rfl, hdelivers, hbytes⟩ := configuration_of_cfgDecode hin hs
  obtain rfl := eq_of_outputIs hout hbytes
  have hask : c.AskedBy r' := {
    type1 := htype.trans (congrArg (·.resp.cfgType) hdelivers)
    write := hwrite.trans (congrArg (·.resp.cfgWrite) hdelivers)
    reqId := hid.trans (congrArg (·.resp.reqId) hdelivers)
    tag := htag.trans (congrArg (·.resp.tag) hdelivers)
    tgtId := htgt.trans (congrArg (·.resp.tgtId) hdelivers)
    reg := hreg.trans (congrArg (·.resp.regIndex.map BitVec.toNat) hdelivers)
    firstBe := hbe.trans (congrArg (·.resp.firstBe) hdelivers) }
  obtain ⟨t', hnext, hsent, houtBytes⟩ := cfgEncode_delivers hin' hask hlegal
  exact ⟨t', ⟨hnext, congrArg (·.resp.status) hsent⟩, congrArg (·.resp.outLen) hsent, hin.bound, houtBytes⟩

/-! ## The index of every decode -/

/-- REG_INDEX is REG_NUM and EXT_REG put together (44_config.md R212). -/
def SplitsIndex (resp : Response) : Prop :=
  ∃ x n e, resp.regIndex = some x ∧ resp.regNum = some n ∧ resp.extReg = some e ∧ x.toNat = e.toNat * 64 + n.toNat

theorem toNat_regIndex (reg : BitVec 10) :
    reg.toNat = (reg.extractLsb' 6 4).toNat * 64 + (reg.extractLsb' 0 6).toNat := by
  have hreg := reg.isLt
  rw [BitVec.extractLsb'_toNat, BitVec.extractLsb'_toNat, Nat.shiftRight_eq_div_pow, Nat.shiftRight_zero]
  omega

theorem splitsIndex_configDecoded (kind : Kind) (tlp : List Byte) (payload : Nat) :
    SplitsIndex (configDecoded kind tlp payload) :=
  ⟨_, _, _, rfl, rfl, rfl, toNat_regIndex (regIndexOf tlp)⟩

theorem cfgDecode_yields_splitsIndex (tlp : List Byte) : Yields SplitsIndex (cfgDecode tlp) :=
  (yields_decodePrologue _ _ tlp).bind fun _ _ => (yields_checkMbz _ tlp).bind fun _ _ => .check fun _ => .check fun _ =>
    (yields_checkPayload _ _ _).bind fun _ _ => splitsIndex_configDecoded _ _ _

/-- A command that succeeds answered what its pseudocode yields: an error's STATUS is never OK (60_exceptions.md R254). -/
theorem yielded_of_succeeds {P : Response → Prop} {i : Instr} {f : Operands → Except Raise Response} {s t : State}
    (hrun : exec i s = runCommand i (fun o => respond (f o)) s) (hf : ∀ o, Yields P (f o)) (hs : Succeeds (exec i s) t) :
    ∃ resp, P resp ∧ t.resp = succeed resp := by
  obtain ⟨hnext, hstatus⟩ := hs
  obtain ⟨r, -, -, rfl⟩ := complete_next (hrun.symm.trans hnext)
  rw [deliver_resp] at hstatus ⊢
  rcases Nat.lt_or_ge 4112 (operandsOf r).inLen with hlong | hfits
  · rw [withinBuffer_of_lt hlong, raiseError_status] at hstatus
    exact absurd (Option.some.inj hstatus) (by decide)
  · rw [withinBuffer_of_le hfits] at hstatus ⊢
    have hyields := hf (operandsOf r)
    cases hok : f (operandsOf r) with
    | ok resp =>
      rw [hok] at hyields
      exact ⟨resp, hyields, rfl⟩
    | error e =>
      rw [hok] at hyields hstatus
      exact absurd (Option.some.inj hstatus) (isError_iff.1 hyields).1

theorem splitsIndex_of_succeeds {s t : State} (hs : Succeeds (exec .cfgDecode s) t) : SplitsIndex t.resp := by
  obtain ⟨resp, hsplits, hresp⟩ :=
    yielded_of_succeeds (f := fun o => cfgDecode o.input) rfl (fun o => cfgDecode_yields_splitsIndex o.input) hs
  rw [hresp]
  exact hsplits

/-- Settles O52: the decoder's answer on a request that was written, the encoder's on one that was read, and the index that
every decode splits. -/
theorem configurationRoundTrip : Obligations.ConfigurationRoundTrip :=
  ⟨fun _ _ _ _ _ _ _ => cfgDecode_of_cfgEncode, fun _ _ _ _ _ _ _ => cfgEncode_of_cfgDecode,
    fun _ _ => splitsIndex_of_succeeds⟩

end Sys2Proof.Proofs
end

section
/-! PROOF. What DECODE_ANY reports of its four candidates (45_validation.md R241), and that at most one of them knows the kind
of a TLP (45_validation.md R242). -/

namespace Sys2Proof.Proofs

open Sys2Proof Sys2Proof.Machine Sys2Proof.Safety

/-! ## At most one candidate succeeds (45_validation.md R242) -/

/-- A buffer too short to be classified is refused before its kind is looked at (45_validation.md R230). -/
theorem decodePrologue_of_short {accepts : Kind → Bool} {kind : Kind} {tlp : List Byte} (hlen : tlp.length ≤ 3) :
    decodePrologue accepts kind tlp = .error ⟨.malformedHeader, .buffer⟩ := by
  rw [decodePrologue, show decide (Config.minClassifyBytes ≤ tlp.length) = false from
    decide_eq_false (Nat.not_le.2 (Nat.lt_succ_of_le hlen))]
  rfl

theorem decodeBy_of_short {c : Candidate} {tlp : List Byte} (hlen : tlp.length ≤ 3) :
    decodeBy c tlp = .error ⟨.malformedHeader, .buffer⟩ := by
  obtain ⟨rest, -, hdecode⟩ := decodeBy_eq_prologue_bind c tlp
  rw [hdecode, decodePrologue_of_short hlen, except_error_bind]

/-- No kind is two decoders' (40_header_classify.md R131). -/
theorem not_acceptsBy_of_ne {c c' : Candidate} (h : c ≠ c') (kind : Kind) :
    acceptsBy c kind = false ∨ acceptsBy c' kind = false := by
  by_contra hboth
  simp only [not_or, Bool.not_eq_false, acceptsBy_iff] at hboth
  obtain ⟨hc, hc'⟩ := hboth
  exact h (Option.some.inj (hc.symm.trans hc'))

theorem raises_unsupported {s : State} {r : RequestFile} {bytes : List Byte} {c : Candidate} (hin : HoldsInput s r bytes)
    (hlen : 4 ≤ bytes.length) (h : acceptsBy c (kindOf (byteAt bytes 0)) = false) :
    Raises s (exec (commandOf c) s) .unsupportedType .fmtType := by
  have hexec := exec_commandOf c hin
  rw [decodeBy_of_not_accepted hlen h] at hexec
  exact raises_of_deliver hexec

/-- The four commands of the statements are those of the four candidates. -/
theorem decodeCommands_eq_map : [Instr.mrdDecode, .mwrDecode, .cplDecode, .cfgDecode] =
    [Candidate.mrd, .mwr, .cpl, .cfg].map commandOf := rfl

/-- Settles O57: of two decoders one does not know the kind of byte 0, and none gets to byte 0 of fewer than 4 bytes. -/
theorem atMostOneCandidateSucceeds : Obligations.AtMostOneCandidateSucceeds := by
  intro s r bytes hin
  rw [decodeCommands_eq_map]
  refine ⟨fun hlong => ?_, fun hshort i hi => ?_⟩
  · have hdistinct : [Candidate.mrd, .mwr, .cpl, .cfg].Pairwise (· ≠ ·) := by decide
    refine List.pairwise_map.2 (hdistinct.imp fun hne => ?_)
    exact (not_acceptsBy_of_ne hne (kindOf (byteAt bytes 0))).imp (raises_unsupported hin hlong) (raises_unsupported hin hlong)
  · obtain ⟨c, -, rfl⟩ := List.mem_map.1 hi
    have hexec := exec_commandOf c hin
    rw [decodeBy_of_short hshort] at hexec
    exact raises_of_deliver hexec

/-! ## The report of the four results (45_validation.md R241) -/

theorem respond_status (x : Except Raise Response) : (respond x).status = some (candidateStatus x) := by
  cases x <;> rfl

theorem respond_errField (x : Except Raise Response) : (respond x).errField = some (candidateField x) := by
  cases x <;> rfl

/-- A decoder's error is not reported as OK (60_exceptions.md R254). -/
theorem candidateStatus_ne_ok {x : Except Raise Response} (hx : Yields OutputFits x) (h : ∀ resp, x ≠ .ok resp) :
    candidateStatus x ≠ .ok := by
  cases x with
  | ok resp => exact absurd rfl (h resp)
  | error e => exact (isError_iff.1 hx).1

theorem yields_decodeBy (c : Candidate) (tlp : List Byte) : Yields OutputFits (decodeBy c tlp) := by
  cases c with
  | mrd => exact yields_mrdDecodeAs _ tlp
  | mwr => exact yields_mwrDecodeAs _ tlp
  | cpl => exact yields_cplDecodeAs _ tlp
  | cfg => exact yields_cfgDecodeAs _ tlp

/-- The four results on a buffer, in candidate order. -/
def resultsOn (tlp : List Byte) : PerCandidate (Except Raise Response) :=
  ⟨decodeBy .mrd tlp, decodeBy .mwr tlp, decodeBy .cpl tlp, decodeBy .cfg tlp⟩

theorem decodeAny_eq_verdict (tlp : List Byte) : decodeAny tlp = verdict (resultsOn tlp) := rfl

/-- What a decoder other than the winner's answers (45_validation.md R242). -/
theorem decodeBy_of_winner {c c' : Candidate} {tlp : List Byte} {resp : Response} (h : decodeBy c tlp = .ok resp)
    (hne : c ≠ c') : decodeBy c' tlp = unsupported := by
  obtain ⟨hlen, hkind⟩ := accepted_of_decodeBy_ok h
  exact decodeBy_of_variantOf_ne hlen fun hv => hne (Option.some.inj ((acceptsBy_iff.1 hkind).symm.trans hv))

/-- Without a winner the verdict is the overall error (45_validation.md R241). -/
theorem verdict_of_no_winner {c : PerCandidate (Except Raise Response)} (h : ∀ x ∈ resultList c, ∀ resp, x ≠ .ok resp) :
    verdict c = withCandidates c 7 (raiseError (overallError c)) := by
  have hnone : winners c = [] := List.eq_nil_iff_forall_not_mem.2 fun row hrow => h _ (mem_winners hrow) row.2 rfl
  rw [verdict, hnone]

/-- The overall error, by the statuses and the fields that are reported. -/
theorem overallError_eq (c : PerCandidate (Except Raise Response)) : overallError c =
    (((resultList c).map fun x => (candidateStatus x, candidateField x)).find? fun x => x.1 ≠ .unsupportedType).elim
      ⟨.unsupportedType, .fmtType⟩ fun x => ⟨x.1, x.2⟩ := by
  have hpredicate : (fun x => candidateStatus x != .unsupportedType) =
      (fun x : Status × ErrField => decide (x.1 ≠ .unsupportedType)) ∘
        fun x : Except Raise Response => (candidateStatus x, candidateField x) := by
    funext x
    rw [Function.comp_apply, decide_not]
    rfl
  rw [List.find?_map, ← hpredicate, overallError]
  cases (resultList c).find? fun x => candidateStatus x != .unsupportedType <;> rfl

/-- Settles O56: with a winner the other three do not know the kind, and without one no status is OK. -/
theorem decodeAnyReportsEveryCandidate : Obligations.DecodeAnyReportsEveryCandidate := by
  intro s r bytes hin
  refine ⟨_, _, _, _, _, _, _, _, _, _, _, _, _, exec_decodeAny_of_holdsInput hin,
    exec_commandOf .mrd hin, respond_status _, respond_errField _,
    exec_commandOf .mwr hin, respond_status _, respond_errField _,
    exec_commandOf .cpl hin, respond_status _, respond_errField _,
    exec_commandOf .cfg hin, respond_status _, respond_errField _, ?_⟩
  by_cases hwin : ∃ c resp, decodeBy c bytes = .ok resp
  · obtain ⟨c, resp, hok⟩ := hwin
    rw [decodeAny_of_decodeBy_ok hok]
    cases c <;> simp [hok, decodeBy_of_winner hok] <;> rfl
  · push Not at hwin
    have hne : ∀ c, candidateStatus (decodeBy c bytes) ≠ .ok := fun c =>
      candidateStatus_ne_ok (yields_decodeBy c bytes) (hwin c)
    have hresults : ∀ x ∈ resultList (resultsOn bytes), ∀ resp, x ≠ .ok resp := by simp [resultList, resultsOn, hwin]
    rw [deliver_resp, decodeAny_eq_verdict, verdict_of_no_winner hresults, overallError_eq]
    simp only [List.zipIdx, List.filter, hne, decide_false, resultList, resultsOn, List.map]
    generalize List.find? _ _ = found
    cases found <;> rfl

end Sys2Proof.Proofs
end

section
/-! PROOF. What an error leaves valid (60_exceptions.md R254; 45_validation.md R241), and the three cases of IllegalCommand
(60_exceptions.md R252; 45_validation.md R240). -/

namespace Sys2Proof.Proofs

open Sys2Proof Sys2Proof.Machine Sys2Proof.Safety

/-! ## The errors of a command (60_exceptions.md R254) -/

/-- Every response that is not a success is what `raise` leaves: STATUS, ERR_FIELD and no other field. -/
def RaisesOnly (op : Operands → Response) : Prop := ∀ o, (op o).status ≠ some .ok → ∃ e, op o = raiseError e

theorem raisesOnly_respond (f : Operands → Except Raise Response) : RaisesOnly fun o => respond (f o) := by
  intro o hne
  cases h : f o with
  | ok resp => simp [h] at hne
  | error e => exact ⟨e, by simp only [h, respond_error]⟩

theorem raisesOnly_withinBuffer {op : Operands → Response} (h : RaisesOnly op) : RaisesOnly (withinBuffer op) := by
  intro o hne
  by_cases hlen : 4112 < o.inLen
  · exact ⟨_, withinBuffer_of_lt hlen⟩
  · rw [withinBuffer_of_le (Nat.not_lt.1 hlen)] at hne ⊢
    exact h o hne

theorem runCommand_raisesOnly (i : Instr) (f : Operands → Except Raise Response) :
    ∃ op, (∀ s, runCommand i (fun o => respond (f o)) s = complete i op s) ∧ RaisesOnly op :=
  ⟨_, fun _ => rfl, raisesOnly_withinBuffer (raisesOnly_respond f)⟩

/-- A command that does not report candidates has no other field valid after an error. -/
theorem exec_raisesOnly {i : Instr} (h : ¬ IsMultiAttempt i) : ∃ op, (∀ s, exec i s = complete i op s) ∧ RaisesOnly op := by
  obtain ⟨hany, hrow⟩ := not_or.1 h
  cases i
  case classify | devidPack | devidParse | mrdEncode | mwrEncode | mrdDecode | mwrDecode | cplEncode | cplDecode | cfgEncode |
      cfgDecode => exact runCommand_raisesOnly _ _
  case devidUnpack => exact runCommand_raisesOnly _ fun o => .ok (devidUnpack o)
  case devidFormat => exact runCommand_raisesOnly _ fun o => .ok (devidFormat o)
  case illegalCmd cmd => exact ⟨_, fun _ => rfl, fun _ _ => ⟨_, rfl⟩⟩
  case decodeAny => exact absurd rfl hany
  all_goals exact absurd rfl hrow

/-! ## The errors of a DECODE_ANY (45_validation.md R241) -/

/-- The candidates' results are valid whatever the verdict is, and WINNER is 7 unless it is a success. -/
theorem verdict_reports (c : PerCandidate (Except Raise Response)) :
    (verdict c).candStatus.isSome = true ∧ (verdict c).candField.isSome = true ∧
      ((verdict c).status ≠ some .ok → (verdict c).winner = some 7) := by
  unfold verdict
  split
  · exact ⟨rfl, rfl, fun h => absurd rfl h⟩
  · exact ⟨rfl, rfl, fun _ => rfl⟩

/-- What a row of byte 0 answers is a verdict too (40_header_classify.md R133). -/
theorem exists_verdict_of_dispatchKind (kind : Kind) (tlp : List Byte) : ∃ c, dispatchKind kind tlp = verdict c := by
  unfold dispatchKind
  split
  · exact ⟨_, rfl⟩
  · split <;> exact ⟨_, rfl⟩

/-- DECODE_ANY, and each row of byte 0, answers a verdict on an IN_LEN that the block takes (log 5, log 24). -/
theorem exec_of_multiAttempt {i : Instr} (h : IsMultiAttempt i) : ∃ op : Operands → Response,
    (∀ s, exec i s = runCommand i op s) ∧ ∀ o, ∃ c, op o = verdict c := by
  obtain rfl | hrow := h
  · exact ⟨_, fun _ => rfl, fun _ => ⟨_, rfl⟩⟩
  · obtain ⟨kind, hkind⟩ := Option.isSome_iff_exists.1 hrow
    exact ⟨_, exec_of_rowKind hkind, fun o => exists_verdict_of_dispatchKind kind o.input⟩

/-! ## The fields after an error -/

/-- A field that no error leaves valid reads as no value. -/
theorem respValue_of_onlyErrorFields {resp : Response} (h : OnlyErrorFields resp) {f : RespField} (hstatus : f ≠ .status)
    (hfield : f ≠ .errField) (hcandStatus : ∀ c, f ≠ .candStatus c) (hcandField : ∀ c, f ≠ .candField c)
    (hwinner : f ≠ .winner) : respValue resp f = none := by
  rw [h]
  cases f
  case status => exact absurd rfl hstatus
  case errField => exact absurd rfl hfield
  case candStatus c => exact absurd rfl (hcandStatus c)
  case candField c => exact absurd rfl (hcandField c)
  case winner => exact absurd rfl hwinner
  all_goals rfl

/-- A read of a field that holds no value faults (10_state.md R26). -/
theorem step_read_of_no_value {s : State} {f : RespField} (rest : List HostAction) (h : respValue s.resp f = none) :
    step { s with hostQueue := .read f :: rest } = .fault .invalidRead :=
  (readGives_of_respValue (s := { s with hostQueue := .read f :: rest }) h rfl).2 rfl

section Candidates

variable {i : Instr} {s t : State} (hexec : exec i s = .next t) (hne : t.resp.status ≠ some .ok)
include hexec hne

theorem candidates_of_multiAttempt {r : RequestFile} {l : BitVec 13} (hi : IsMultiAttempt i) (hr : s.captured = some r)
    (hl : r.inLen = some l) (hmax : l.toNat ≤ 4112) :
    t.resp.candStatus.isSome = true ∧ t.resp.candField.isSome = true ∧ t.resp.winner = some 7 := by
  obtain ⟨op, hop, hverdict⟩ := exec_of_multiAttempt hi
  rw [hop] at hexec
  obtain ⟨r', hr', -, rfl⟩ := complete_next hexec
  obtain rfl : r = r' := Option.some.inj (hr.symm.trans hr')
  have hlen : (operandsOf r).inLen ≤ 4112 := by simpa [operandsOf, hl] using hmax
  obtain ⟨c, hc⟩ := hverdict (operandsOf r)
  rw [deliver_resp, withinBuffer_of_le hlen, hc] at hne ⊢
  obtain ⟨hstatus, hfield, hwinner⟩ := verdict_reports c
  exact ⟨hstatus, hfield, hwinner hne⟩

theorem no_candidates_of_command (hi : ¬ IsMultiAttempt i) :
    t.resp.candStatus = none ∧ t.resp.candField = none ∧ t.resp.winner = none := by
  obtain ⟨op, hop, hraises⟩ := exec_raisesOnly hi
  rw [hop] at hexec
  obtain ⟨r, -, -, rfl⟩ := complete_next hexec
  obtain ⟨e, he⟩ := hraises _ hne
  rw [deliver_resp, he]
  exact ⟨rfl, rfl, rfl⟩

end Candidates

/-- Settles O27: every response is complete, so an error has the error fields alone; which of DECODE_ANY's it has, its answer
says. -/
theorem errorLeavesOnlyErrorFields : Obligations.ErrorLeavesOnlyErrorFields := by
  intro i s t r l hr hl hmax hexec hne
  obtain ⟨resp, rfl, hcomplete⟩ := exec_next_complete hexec
  have honly : OnlyErrorFields resp := hcomplete.error hne
  exact ⟨hcomplete.status, hcomplete.errField, honly, fun hi => candidates_of_multiAttempt hexec hne hi hr hl hmax,
    fun hi => no_candidates_of_command hexec hne hi, fun f rest hstatus hfield hcandStatus hcandField hwinner =>
      step_read_of_no_value rest (respValue_of_onlyErrorFields honly hstatus hfield hcandStatus hcandField hwinner)⟩

/-! ## IllegalCommand (60_exceptions.md R252) -/

/-- What a CMD that is a code decodes to is a command of the table (30_encoding.md R110). -/
theorem decodeCommand_ne_illegalCmd {c : Byte} (h : c ∈ commandCodes) (cmd : Byte) : decodeCommand c ≠ .illegalCmd cmd := by
  intro heq
  obtain ⟨hwf, hencode⟩ := encode_decodeCommand c
  rw [heq] at hwf hencode
  obtain rfl : cmd = c := by simpa [encode] using hencode
  simp [Instr.wf, h] at hwf

/-- Every instruction but ILLEGAL_CMD makes the check of IN_LEN (45_validation.md R240). -/
theorem exec_eq_runCommand {i : Instr} (h : ∀ cmd, i ≠ .illegalCmd cmd) : ∃ op, ∀ s, exec i s = runCommand i op s := by
  cases i
  case illegalCmd cmd => exact absurd rfl (h cmd)
  all_goals exact ⟨_, fun _ => rfl⟩

/-- The finish of a request whose image is its CMD byte runs what the byte decodes to (log 5). -/
theorem step_of_command {s : State} {r : RequestFile} {c : Byte} (hr : s.captured = some r) (hfinish : Finishing s)
    (himage : requestImage r = .ok [c]) : step s = exec (decodeCommand c) s := by
  rw [step_of_finishing hfinish, finish_eq_exec hr himage rfl]

/-- A request too long for the block has no byte 0 to dispatch on, so its image is its CMD byte (45_validation.md R240;
log 5). -/
theorem requestImage_of_too_long {r : RequestFile} {c : Byte} {l : BitVec 13} (hc : r.cmd = some c) (hl : r.inLen = some l)
    (hlong : 4112 < l.toNat) : requestImage r = .ok [c] := by
  have habsent : tlpPresent r = false := by
    simp [tlpPresent, meaningfulBytes, hl, Config.maxInBytes, Config.minClassifyBytes, Nat.not_le.2 hlong]
  simp [requestImage, hc, habsent]

section IllegalCommand

variable {s : State} {r : RequestFile} {c : Byte} {l : BitVec 13} (hr : s.captured = some r) (hc : r.cmd = some c)
  (hl : r.inLen = some l)
include hr hc hl

/-- ILLEGAL_CMD reads CMD and IN_LEN alone, and always raises (60_exceptions.md R252). -/
theorem exec_illegalCmd_raises (cmd : Byte) : Raises s (exec (.illegalCmd cmd) s) .illegalCommand .cmd := by
  have hw : fieldsWritten r (fieldsRead (.illegalCmd cmd)) = true := by
    simp [fieldsWritten, fieldsRead, operandFields, fieldWritten, hc, hl]
  exact raises_of_deliver (complete_eq (op := fun _ => raiseError ⟨.illegalCommand, .cmd⟩) hr hw)

omit hr hl in
/-- A request with nothing missing has the operands of its command (10_state.md R25). -/
theorem fieldsWritten_of_not_missing (hmissing : ¬ MissingOperand r) :
    fieldsWritten r (fieldsRead (decodeCommand c)) = true := by
  simpa [requestReady, requestInstr, hc] using requestReady_iff.2 hmissing

/-- Every command refuses an IN_LEN above 4112 before it does anything else (45_validation.md R240). -/
theorem exec_too_long_raises (hcode : c ∈ commandCodes) (hlong : 4112 < l.toNat) (hmissing : ¬ MissingOperand r) :
    Raises s (exec (decodeCommand c) s) .illegalCommand .buffer := by
  obtain ⟨op, hop⟩ := exec_eq_runCommand (decodeCommand_ne_illegalCmd hcode)
  have hlen : 4112 < (operandsOf r).inLen := by simpa [operandsOf, hl] using hlong
  have hexec := complete_eq (op := withinBuffer op) hr (fieldsWritten_of_not_missing hc hmissing)
  rw [withinBuffer_of_lt hlen] at hexec
  exact raises_of_deliver ((hop s).trans hexec)

/-- A command whose pseudocode raises raises, on an IN_LEN that the block takes. -/
theorem exec_command_raises {f : Operands → Except Raise Response} {st : Status} {g : ErrField} (hmax : l.toNat ≤ 4112)
    (hmissing : ¬ MissingOperand r)
    (hexec : exec (decodeCommand c) s = runCommand (decodeCommand c) (fun o => respond (f o)) s)
    (hraise : f (operandsOf r) = .error ⟨st, g⟩) : Raises s (exec (decodeCommand c) s) st g := by
  have hlen : (operandsOf r).inLen ≤ 4112 := by simpa [operandsOf, hl] using hmax
  have hrun := complete_eq (op := withinBuffer fun o => respond (f o)) hr (fieldsWritten_of_not_missing hc hmissing)
  rw [withinBuffer_of_le hlen, hraise] at hrun
  exact raises_of_deliver (hexec.trans hrun)

end IllegalCommand

/-- Both memory encoders check WIDTH_SEL first (42_memory_rw.md R164, R165). -/
theorem encoders_of_width_three {o : Operands} (h : o.widthSel = 3) :
    mrdEncode o = .error ⟨.illegalCommand, .widthSel⟩ ∧ mwrEncode o = .error ⟨.illegalCommand, .widthSel⟩ := by
  rw [mrdEncode_eq, mwrEncode_eq, h]
  exact ⟨rfl, rfl⟩

/-- Settles O28, case by case: each is the check its command makes first of those that can fail. -/
theorem illegalCommandCases : Obligations.IllegalCommandCases := by
  intro s r c l hr hc hl
  refine ⟨fun hcode => ⟨exec_illegalCmd_raises hr hc hl c, fun hfinish => ?_⟩, fun hcode hlong hmissing hfinish => ?_,
    fun hwidths hmax hmissing hwidth hfinish => ?_⟩
  · have hany : c ≠ 0x40 := by
      rintro rfl
      exact hcode (by decide)
    rw [step_of_command hr hfinish (requestImage_of_command hc hany), decodeCommand_of_not_code hcode]
    exact exec_illegalCmd_raises hr hc hl c
  · rw [step_of_command hr hfinish (requestImage_of_too_long hc hl hlong)]
    exact exec_too_long_raises hr hc hl hcode hlong hmissing
  · have hthree : (operandsOf r).widthSel = 3 := by rw [operandsOf, hwidth]; rfl
    obtain ⟨hmrd, hmwr⟩ := encoders_of_width_three hthree
    rcases hwidths with rfl | rfl
    · rw [step_of_command hr hfinish (requestImage_of_command hc (by decide))]
      exact exec_command_raises hr hc hl hmax hmissing rfl hmrd
    · rw [step_of_command hr hfinish (requestImage_of_command hc (by decide))]
      exact exec_command_raises hr hc hl hmax hmissing rfl hmwr

end Sys2Proof.Proofs
end

section
/-! PROOF. The checks of the four decoders in the order of the table (45_validation.md R230 to R234): each decoder's pseudocode
reports the first of its variant's checks that fails, and succeeds where none does. -/

namespace Sys2Proof.Proofs

open Sys2Proof Sys2Proof.Machine Sys2Proof.Safety

/-! ## A sequence of checks -/

/-- The pseudocode raises the error of the first check that fails, and reaches its end where none does. -/
def Reports {α : Type} (x : Except Raise α) (checks : List (Bool × Status × ErrField)) : Prop :=
  match firstFailed checks with
  | some (st, f) => x = .error ⟨st, f⟩
  | none => ∃ a, x = .ok a

theorem firstFailed_append (cs ds : List (Bool × Status × ErrField)) :
    firstFailed (cs ++ ds) = (firstFailed cs).or (firstFailed ds) := by
  rw [firstFailed, List.find?_append, Option.map_or]
  rfl

theorem firstFailed_cons (c : Bool) (st : Status) (f : ErrField) (checks : List (Bool × Status × ErrField)) :
    firstFailed ((c, st, f) :: checks) = if c then firstFailed checks else some (st, f) := by
  cases c <;> rfl

section Reports

variable {α β : Type} {x : Except Raise α} {g : α → Except Raise β} {cs ds : List (Bool × Status × ErrField)} {c c' : Bool}
  {st : Status} {f : ErrField}

theorem reports_of_failed (h : firstFailed cs = some (st, f)) : Reports x cs ↔ x = .error ⟨st, f⟩ := by
  simp only [Reports, h]

theorem reports_of_passed (h : firstFailed cs = none) : Reports x cs ↔ ∃ a, x = .ok a := by
  simp only [Reports, h]

theorem reports_ok (a : α) : Reports (.ok a) [] := ⟨a, rfl⟩

/-- Checks in sequence are reported in sequence. -/
theorem Reports.bind (hx : Reports x cs) (hg : ∀ a, x = .ok a → Reports (g a) ds) : Reports (x >>= g) (cs ++ ds) := by
  have happend := firstFailed_append cs ds
  cases hfirst : firstFailed cs with
  | some e =>
    rw [hfirst, Option.some_or] at happend
    rw [reports_of_failed happend, (reports_of_failed hfirst).1 hx, except_error_bind]
  | none =>
    obtain ⟨a, rfl⟩ := (reports_of_passed hfirst).1 hx
    rw [hfirst, Option.none_or] at happend
    rw [Reports, happend]
    exact hg a rfl

theorem reports_require (h : c = c') : Reports (require c st f) [(c', st, f)] := by
  subst h
  cases c
  · rfl
  · exact ⟨(), rfl⟩

theorem Reports.check {g : Unit → Except Raise β} (h : c = c') (hg : Reports (g ()) ds) :
    Reports (require c st f >>= g) ((c', st, f) :: ds) :=
  (reports_require h).bind fun _ _ => hg

/-- The pseudocode may leave out a check of the table that cannot fail. -/
theorem Reports.skip (hx : Reports x ds) (h : c = true) : Reports x ((c, st, f) :: ds) := by
  rw [Reports, firstFailed_cons, if_pos h]
  exact hx

end Reports

/-! ## The fields the table names by their bytes (30_encoding.md R86 to R88, R91) -/

theorem headerBytes_eq_headerSize (tlp : List Byte) : headerBytes tlp = headerSize tlp := by
  have hbit : ∀ b : Byte, (fmtOf b).getLsbD 0 = b.getLsbD 5 := by decide
  rw [headerBytes, hbit]
  rfl

theorem memRead_two {tlp : List Byte} {a : Nat} (h : a + 2 ≤ tlp.length) :
    memRead tlp a 2 = (byteOf tlp a).toNat * 256 + (byteOf tlp (a + 1)).toNat := by
  rw [memRead, inBytes_two h]
  simp [beNat, byteAt, byteOf]

theorem rawLength_eq_lengthBits {tlp : List Byte} (h : 4 ≤ tlp.length) : rawLength tlp = lengthBits tlp := by
  have hlow := (byteOf tlp 3).isLt
  have hword : memRead tlp 2 2 = (byteOf tlp 2).toNat * 256 + (byteOf tlp 3).toNat := memRead_two h
  rw [rawLength, hword, lengthBits]
  omega

theorem lengthValue_eq_lengthDwords {tlp : List Byte} (h : 4 ≤ tlp.length) :
    lengthValue (rawLength tlp) = lengthDwords tlp := by
  rw [rawLength_eq_lengthBits h]
  rfl

/-! ## The checks every decoder makes (45_validation.md R230 to R233) -/

/-- Steps 1 to 3, where `accepted` are the bytes 0 of the accepted kinds. -/
theorem reports_decodePrologue {accepts : Kind → Bool} {accepted : List Byte}
    (h : ∀ b, accepts (kindOf b) = accepted.contains b) (tlp : List Byte) :
    Reports (decodePrologue accepts (kindOf (byteAt tlp 0)) tlp)
      [(decide (4 ≤ tlp.length), .malformedHeader, .buffer),
       (accepted.contains (byteOf tlp 0), .unsupportedType, .fmtType),
       (decide (headerSize tlp ≤ tlp.length), .malformedHeader, .buffer)] :=
  .check rfl (.check (h _) (reports_require (by rw [headerBytes_eq_headerSize])))

/-- Step 4, as the table writes it. -/
def mbzCheck (mbz : List (Nat × Byte)) (tlp : List Byte) : Bool × Status × ErrField :=
  (((1, 0xFF) :: (2, 0xFC) :: mbz).all fun row => byteOf tlp row.1 &&& row.2 == 0, .malformedHeader, .reservedBits)

theorem reports_checkMbz {kind : Kind} {mbz : List (Nat × Byte)} (h : variantMbz kind = mbz) (tlp : List Byte) :
    Reports (checkMbz kind tlp) [mbzCheck mbz tlp] :=
  h ▸ reports_require rfl

/-- A decoder asks for the buffer, the kind and the header; what follows may use that they are there. -/
theorem reports_decoder {α : Type} {accepts : Kind → Bool} {accepted : List Byte} {mbz : List (Nat × Byte)} {tlp : List Byte}
    {x : Except Raise α} {ds : List (Bool × Status × ErrField)} (haccepted : ∀ b, accepts (kindOf b) = accepted.contains b)
    (hx : 4 ≤ tlp.length → accepts (kindOf (byteAt tlp 0)) = true → headerBytes tlp ≤ tlp.length →
      Reports x (mbzCheck mbz tlp :: ds)) :
    Reports (decodePrologue accepts (kindOf (byteAt tlp 0)) tlp >>= fun _ => x) (headChecks accepted mbz tlp ++ ds) :=
  (reports_decodePrologue haccepted tlp).bind fun _ hprologue => by
    obtain ⟨hlen, hkind, hhdr⟩ := decodePrologue_ok.1 hprologue
    exact hx hlen hkind hhdr

/-- Step 6. -/
theorem reports_checkPayload {tlp : List Byte} {hdr : Nat} (hsize : hdr = headerSize tlp) (hhdr : hdr ≤ tlp.length)
    (need : Nat) : Reports (checkPayload tlp hdr need) (payloadChecks need tlp) :=
  .check (decide_eq_decide.2 (by omega)) (reports_require (decide_eq_decide.2 (by omega)))

/-! ## The memory decoders (42_memory_rw.md R161, R166, R167) -/

/-- The low-contiguous masks are those that count bytes (30_encoding.md R99). -/
theorem lowContiguous_eq_isSome (m : BitVec 4) : lowContiguous m = (maskCount m).isSome := by
  revert m
  decide

theorem reports_defined (m : BitVec 4) (st : Status) (f : ErrField) :
    Reports (defined (maskCount m) st f) [(lowContiguous m, st, f)] := by
  rw [lowContiguous_eq_isSome]
  cases maskCount m with
  | some n => exact ⟨n, rfl⟩
  | none => rfl

theorem reports_beToCount (L : Nat) (fbe lbe : BitVec 4) : Reports (beToCount L fbe lbe)
    [(!(L == 1 && fbe == 0), .invalidLength, .firstBe),
     (if L == 1 then lowContiguous fbe else fbe == 0b1111, .malformedHeader, .firstBe),
     (if L == 1 then lbe == 0 else lowContiguous lbe, .malformedHeader, .lastBe)] := by
  unfold beToCount
  by_cases hone : L = 1
  · rw [if_pos hone, beq_iff_eq.2 hone]
    exact .check rfl ((reports_defined fbe _ _).bind fun _ _ => .check rfl (reports_ok _))
  · rw [if_neg hone, beq_eq_false_iff_ne.2 hone]
    exact .skip (.check rfl ((reports_defined lbe _ _).bind fun _ _ => reports_ok _)) rfl

/-- A 4DW header whose high address dword is zero, byte by byte (42_memory_rw.md R166). -/
theorem addressCheck_eq {tlp : List Byte} (hhdr : headerBytes tlp ≤ tlp.length) :
    (headerBytes tlp != 16 || addrHigh tlp != 0) =
      !(headerSize tlp == 16 && ([8, 9, 10, 11].all fun k => byteOf tlp k == 0)) := by
  have hsize := headerBytes_eq tlp
  rw [← headerBytes_eq_headerSize]
  cases hflag : fourDwFlag tlp with
  | false =>
    rw [hsize, hflag]
    rfl
  | true =>
    have hlong : headerBytes tlp = 16 := by rw [hsize, hflag]; rfl
    have hhigh : addrHigh tlp = (((byteOf tlp 8).toNat * 256 + (byteOf tlp 9).toNat) * 256 + (byteOf tlp 10).toNat) * 256 +
        (byteOf tlp 11).toNat := by
      rw [addrHigh, if_neg (by omega), memRead_succ (by omega), memRead_succ (by omega), memRead_two (by omega)]
      rfl
    have hbyte : ∀ b : Byte, b = 0 ↔ b.toNat = 0 := fun b => BitVec.toNat_inj.symm
    have hzero : addrHigh tlp = 0 ↔
        byteOf tlp 8 = 0 ∧ byteOf tlp 9 = 0 ∧ byteOf tlp 10 = 0 ∧ byteOf tlp 11 = 0 := by
      simp only [hbyte]
      omega
    rw [hlong, Bool.eq_iff_iff]
    simp [hzero, imp_iff_not_or]

/-- The must-be-zero bits of a memory request's last byte, as the table writes them (30_encoding.md R96). -/
theorem memoryMbz_of_masks {kind : Kind} {tlp : List Byte}
    (h : variantMbz kind = [((if (fmtOf (byteAt tlp 0)).getLsbD 0 then 16 else 12) - 1, 0x03)]) :
    variantMbz kind = memoryMbz tlp := by
  rw [memoryMbz, ← headerBytes_eq_headerSize]
  exact h

theorem reports_memoryChecks {kind : Kind} {tlp : List Byte} (hkind : variantMbz kind = memoryMbz tlp)
    (hlen : 4 ≤ tlp.length) (hhdr : headerBytes tlp ≤ tlp.length) :
    Reports (memoryChecks kind tlp) (mbzCheck (memoryMbz tlp) tlp :: transferChecks tlp) := by
  rw [memoryChecks, lengthValue_eq_lengthDwords hlen]
  exact (reports_checkMbz hkind tlp).bind fun _ _ => (reports_beToCount _ _ _).bind fun _ _ =>
    .check (addressCheck_eq hhdr) (reports_ok _)

theorem reports_mrdDecode (tlp : List Byte) : Reports (mrdDecode tlp) (readChecks tlp) :=
  reports_decoder (by decide) fun hlen hkind hhdr => (reports_memoryChecks
    (memoryMbz_of_masks (byteZero_of_acceptsMrd _ hkind).2) hlen hhdr).bind fun _ _ =>
    (reports_checkPayload (headerBytes_eq_headerSize tlp) hhdr 0).bind fun _ _ => reports_ok _

/-- The byte count that the enables give, by the bytes the last dword's leave enabled (42_memory_rw.md R161). -/
theorem byteCount_eq_lastCount {kind : Kind} {tlp : List Byte} {n : Nat} (hlen : 4 ≤ tlp.length)
    (h : memoryChecks kind tlp = .ok n) : n = 4 * (lengthDwords tlp - 1) + lastCount tlp := by
  have hcount : ∀ {m : BitVec 4} {k : Nat}, maskCount m = some k →
      k = m.toNat % 2 + m.toNat / 2 % 2 + m.toNat / 4 % 2 + m.toNat / 8 := fun hm => by
    rcases maskCount_eq_some hm with ⟨rfl, rfl⟩ | ⟨rfl, rfl⟩ | ⟨rfl, rfl⟩ | ⟨rfl, rfl⟩ <;> rfl
  have hnibbles : ∀ b : Byte, (b.extractLsb' 0 4).toNat = b.toNat % 16 ∧ (b.extractLsb' 4 4).toNat = b.toNat / 16 := by
    decide
  obtain ⟨hfirst, hlast⟩ := hnibbles (byteOf tlp 7)
  simp only [memoryChecks, except_bind_eq_ok, lengthValue_eq_lengthDwords hlen] at h
  obtain ⟨-, -, m, hcheck, -, -, hm⟩ := h
  cases hm
  unfold beToCount at hcheck
  rw [lastCount]
  split_ifs at hcheck ⊢ with hone
  · simp only [except_bind_eq_ok, defined_eq_ok] at hcheck
    obtain ⟨-, -, k, hk, -, -, hn⟩ := hcheck
    cases hn
    rw [hcount hk, hone, ← hfirst]
    simp [firstBeOf, byteAt, byteOf]
  · simp only [except_bind_eq_ok, defined_eq_ok] at hcheck
    obtain ⟨-, -, k, hk, hn⟩ := hcheck
    cases hn
    rw [hcount hk, ← hlast]
    rfl

theorem reports_mwrDecode (tlp : List Byte) : Reports (mwrDecode tlp) (writeChecks tlp) := by
  rw [writeChecks, List.append_assoc, List.append_assoc]
  refine reports_decoder (by decide) fun hlen hkind hhdr => (reports_memoryChecks
    (memoryMbz_of_masks (byteZero_of_acceptsMwr _ hkind).2) hlen hhdr).bind fun n hn => ?_
  rw [lengthValue_eq_lengthDwords hlen]
  refine (reports_checkPayload (headerBytes_eq_headerSize tlp) hhdr _).bind fun _ hpayload => .check ?_ (reports_ok _)
  have hrest := checkPayload_ok.1 hpayload
  have hpad : (tlp.drop (headerBytes tlp + n)).length ≤ 4 * lengthDwords tlp - n := by
    rw [List.length_drop]
    omega
  rw [padClear, inBytes, List.take_of_length_le hpad, byteCount_eq_lastCount hlen hn, headerBytes_eq_headerSize, Nat.add_assoc]

/-! ## CPL_DECODE (43_completion.md R190, R191, R193) -/

/-- The Byte Count, by the bits of bytes 6 and 7 (30_encoding.md R91, R92). -/
theorem byteCountOf_eq {tlp : List Byte} (h : 8 ≤ tlp.length) : byteCountOf tlp =
    if (byteOf tlp 6).toNat % 16 * 256 + (byteOf tlp 7).toNat = 0 then 4096
    else (byteOf tlp 6).toNat % 16 * 256 + (byteOf tlp 7).toNat := by
  have hlow := (byteOf tlp 7).isLt
  have hword : memRead tlp 6 2 = (byteOf tlp 6).toNat * 256 + (byteOf tlp 7).toNat := memRead_two h
  have hbits : memRead tlp 6 2 % 4096 = (byteOf tlp 6).toNat % 16 * 256 + (byteOf tlp 7).toNat := by omega
  rw [byteCountOf, hbits]
  rfl

theorem headerBytes_of_fmt {tlp : List Byte} (h : (fmtOf (byteAt tlp 0)).getLsbD 0 = false) : headerBytes tlp = 12 := by
  rw [headerBytes, h]
  rfl

theorem reports_cplDecode (tlp : List Byte) : Reports (cplDecode tlp) (cplChecks tlp) := by
  have hstatus : ∀ b : Byte, statusOk (b.extractLsb' 5 3) = [0, 1, 2, 4].contains (b.toNat / 32) := by decide
  have hlower : ∀ b : Byte, (b.extractLsb' 0 7).toNat % 4 = b.toNat % 4 := by decide
  have hdata : ∀ b : Byte, kindOf b = .cplD ↔ b = 0x4A := by decide
  rw [cplChecks, List.append_assoc]
  refine reports_decoder (by decide) fun hlen hkind hhdr => ?_
  obtain ⟨-, hfmt, hmasks⟩ := byteZero_of_acceptsCpl _ hkind
  have hsize := headerBytes_of_fmt hfmt
  have hheader := hsize.symm.trans (headerBytes_eq_headerSize tlp)
  refine (reports_checkMbz hmasks tlp).bind fun _ _ => .check (hstatus (byteOf tlp 6)) ?_
  by_cases hcplD : kindOf (byteAt tlp 0) = .cplD
  · have hbyte0 : byteOf tlp 0 = 0x4A := (hdata _).1 hcplD
    rw [if_pos hcplD, if_pos hbyte0, lengthValue_eq_lengthDwords hlen]
    refine (reports_checkPayload hheader (by omega) _).bind fun _ _ => .check ?_ (reports_ok _)
    rw [countConsistent, byteCountOf_eq (by omega), lowerAddrOf, hlower]
    rfl
  · have hbyte0 : ¬ byteOf tlp 0 = 0x4A := mt (hdata _).2 hcplD
    rw [if_neg hcplD, if_neg hbyte0, rawLength_eq_lengthBits hlen]
    exact .check rfl ((reports_checkPayload hheader (by omega) 0).bind fun _ _ => reports_ok _)

/-! ## CFG_DECODE (44_config.md R211) -/

theorem reports_cfgDecode (tlp : List Byte) : Reports (cfgDecode tlp) (cfgChecks tlp) := by
  have hlast : ∀ b : Byte, (b.extractLsb' 4 4 == 0) = (b &&& 0xF0 == 0) := by decide
  have hwrite : ∀ b : Byte, (fmtOf b).getLsbD 1 = b.getLsbD 6 := by decide
  rw [cfgChecks, List.append_assoc]
  refine reports_decoder (by decide) fun hlen hkind hhdr => ?_
  obtain ⟨-, hfmt, hmasks⟩ := byteZero_of_acceptsCfg _ hkind
  have hsize := headerBytes_of_fmt hfmt
  have hheader := hsize.symm.trans (headerBytes_eq_headerSize tlp)
  rw [rawLength_eq_lengthBits hlen, withDataFlag, hwrite]
  exact (reports_checkMbz hmasks tlp).bind fun _ _ => .check rfl (.check (hlast (byteOf tlp 7))
    ((reports_checkPayload hheader (by omega) _).bind fun _ _ => reports_ok _))

/-! ## The outcome of a decode -/

theorem followsChecks_of_reports {s : State} {o : Host.Outcome State Fault Refusal} {x : Except Raise Response}
    {checks : List (Bool × Status × ErrField)} (ho : o = .next (deliver s (respond x))) (hx : Reports x checks) :
    FollowsChecks s o checks := by
  rw [FollowsChecks]
  cases hfirst : firstFailed checks with
  | some e =>
    rw [(reports_of_failed hfirst).1 hx] at ho
    exact raises_of_deliver ho
  | none =>
    obtain ⟨resp, rfl⟩ := (reports_of_passed hfirst).1 hx
    exact ⟨_, ho, rfl⟩

/-- Settles O53: each decoder's pseudocode makes the checks of its table one after the other. -/
theorem decodersReportTheFirstFailedCheck : Obligations.DecodersReportTheFirstFailedCheck := fun _ _ bytes hin =>
  ⟨followsChecks_of_reports (exec_commandOf .mrd hin) (reports_mrdDecode bytes),
    followsChecks_of_reports (exec_commandOf .mwr hin) (reports_mwrDecode bytes),
    followsChecks_of_reports (exec_commandOf .cpl hin) (reports_cplDecode bytes),
    followsChecks_of_reports (exec_commandOf .cfg hin) (reports_cfgDecode bytes)⟩

end Sys2Proof.Proofs
end

section
/-! PROOF. An accepted buffer made shorter or longer is refused for its size (45_validation.md R243 point 4): all checks but
those of the payload depend on the header alone. -/

namespace Sys2Proof.Proofs

open Sys2Proof Sys2Proof.Machine Sys2Proof.Safety

/-! ## The table, part by part (45_validation.md R234) -/

/-- The bytes 0 of the kinds a candidate's decoder accepts (40_header_classify.md R131). -/
def acceptedBytes : Candidate → List Byte
  | .mrd => [0x00, 0x20]
  | .mwr => [0x40, 0x60]
  | .cpl => [0x0A, 0x4A]
  | .cfg => [0x04, 0x05, 0x44, 0x45]

/-- The must-be-zero bits of a candidate's header, DW0's aside (30_encoding.md R96). -/
def mbzOf : Candidate → List Byte → List (Nat × Byte)
  | .mrd | .mwr => memoryMbz
  | .cpl => fun _ => [(6, 0x10), (11, 0x80)]
  | .cfg => fun _ => [(10, 0xF0), (11, 0x03)]

/-- Step 5: the checks of the fields of a candidate's header. -/
def fieldChecks (c : Candidate) (tlp : List Byte) : List (Bool × Status × ErrField) :=
  match c with
  | .mrd | .mwr => transferChecks tlp
  | .cpl => ([0, 1, 2, 4].contains ((byteOf tlp 6).toNat / 32), .invalidCompletionStatus, .cplStatus) ::
      if byteOf tlp 0 = 0x4A then [] else [(lengthBits tlp == 0, .lengthMismatch, .length)]
  | .cfg => [(lengthBits tlp == 1, .invalidLength, .length), (byteOf tlp 7 &&& 0xF0 == 0, .malformedHeader, .lastBe)]

/-- The payload bytes that a candidate's header asks for (45_validation.md R233). -/
def payloadNeed (c : Candidate) (tlp : List Byte) : Nat :=
  match c with
  | .mrd => 0
  | .mwr => 4 * lengthDwords tlp
  | .cpl => if byteOf tlp 0 = 0x4A then 4 * lengthDwords tlp else 0
  | .cfg => if (byteOf tlp 0).getLsbD 6 then 4 else 0

/-- The table of a candidate's decoder. -/
def checksOf : Candidate → List Byte → List (Bool × Status × ErrField)
  | .mrd => readChecks
  | .mwr => writeChecks
  | .cpl => cplChecks
  | .cfg => cfgChecks

theorem reports_decodeBy (c : Candidate) (tlp : List Byte) : Reports (decodeBy c tlp) (checksOf c tlp) := by
  cases c with
  | mrd => exact reports_mrdDecode tlp
  | mwr => exact reports_mwrDecode tlp
  | cpl => exact reports_cplDecode tlp
  | cfg => exact reports_cfgDecode tlp

/-- The table is the head, the fields, the payload, and what is checked of the payload last. -/
theorem checksOf_eq (c : Candidate) (tlp : List Byte) : ∃ last, checksOf c tlp =
    headChecks (acceptedBytes c) (mbzOf c tlp) tlp ++
      (fieldChecks c tlp ++ (payloadChecks (payloadNeed c tlp) tlp ++ last)) := by
  cases c with
  | mrd => exact ⟨[], rfl⟩
  | mwr => exact ⟨_, rfl⟩
  | cpl =>
    rw [checksOf, cplChecks, fieldChecks, payloadNeed]
    by_cases hdata : byteOf tlp 0 = 0x4A
    · simp only [if_pos hdata]
      exact ⟨_, rfl⟩
    · simp only [if_neg hdata]
      exact ⟨[], rfl⟩
  | cfg => exact ⟨[], rfl⟩

/-! ## Two buffers with one header -/

/-- The two buffers hold the same bytes in the header of the first. -/
def SameHeader (tlp tlp' : List Byte) : Prop := ∀ k, k < headerSize tlp → byteOf tlp' k = byteOf tlp k

theorem twelve_le_headerSize (tlp : List Byte) : 12 ≤ headerSize tlp := by
  unfold headerSize
  split <;> omega

section SameHeader

variable {tlp tlp' : List Byte} (h : SameHeader tlp tlp')
include h

theorem SameHeader.byteOf_eq {k : Nat} (hk : k < 12) : byteOf tlp' k = byteOf tlp k :=
  h k (hk.trans_le (twelve_le_headerSize tlp))

theorem SameHeader.headerSize_eq : headerSize tlp' = headerSize tlp := by
  rw [headerSize, headerSize, h.byteOf_eq (by decide)]

theorem SameHeader.lengthBits_eq : lengthBits tlp' = lengthBits tlp := by
  rw [lengthBits, lengthBits, h.byteOf_eq (by decide), h.byteOf_eq (by decide)]

theorem SameHeader.lengthDwords_eq : lengthDwords tlp' = lengthDwords tlp := by
  rw [lengthDwords, lengthDwords, h.lengthBits_eq]

theorem SameHeader.fieldChecks_eq (c : Candidate) : fieldChecks c tlp' = fieldChecks c tlp := by
  have hbyte : ∀ {k}, k < 12 → byteOf tlp' k = byteOf tlp k := h.byteOf_eq
  cases c <;>
    simp (disch := decide) only [fieldChecks, transferChecks, List.all_cons, List.all_nil, hbyte, h.headerSize_eq,
      h.lengthBits_eq, h.lengthDwords_eq]

theorem SameHeader.payloadNeed_eq (c : Candidate) : payloadNeed c tlp' = payloadNeed c tlp := by
  cases c <;> simp (disch := decide) only [payloadNeed, h.byteOf_eq, h.lengthDwords_eq]

theorem SameHeader.mbzCheck_eq (c : Candidate) : mbzCheck (mbzOf c tlp') tlp' = mbzCheck (mbzOf c tlp) tlp := by
  have hlast : byteOf tlp' (headerSize tlp - 1) = byteOf tlp (headerSize tlp - 1) :=
    h _ (by have := twelve_le_headerSize tlp; omega)
  cases c <;>
    simp (disch := decide) only [mbzCheck, mbzOf, memoryMbz, List.all_cons, List.all_nil, h.headerSize_eq, h.byteOf_eq, hlast]

end SameHeader

/-! ## The changed buffer -/

theorem firstFailed_eq_none_iff {checks : List (Bool × Status × ErrField)} :
    firstFailed checks = none ↔ ∀ c ∈ checks, c.1 = true := by
  simp [firstFailed]

theorem headChecks_pass_iff {accepted : List Byte} {mbz : List (Nat × Byte)} {tlp : List Byte} :
    firstFailed (headChecks accepted mbz tlp) = none ↔ 4 ≤ tlp.length ∧ accepted.contains (byteOf tlp 0) = true ∧
      headerSize tlp ≤ tlp.length ∧ (mbzCheck mbz tlp).1 = true := by
  rw [firstFailed_eq_none_iff, headChecks]
  simp only [List.forall_mem_cons, List.not_mem_nil, false_implies, implies_true, and_true, decide_eq_true_eq, mbzCheck]

theorem firstFailed_of_reports_ok {α : Type} {a : α} {checks : List (Bool × Status × ErrField)}
    (h : Reports (.ok a) checks) : firstFailed checks = none := by
  cases hfirst : firstFailed checks with
  | none => rfl
  | some e => cases (reports_of_failed hfirst).1 h

/-- The payload checks report a size that is not the one asked for, and on which side of it the buffer ends. -/
theorem firstFailed_payloadChecks (need : Nat) (tlp : List Byte) : firstFailed (payloadChecks need tlp) =
    if tlp.length < headerSize tlp + need then some (.truncatedBuffer, .payload)
    else if headerSize tlp + need < tlp.length then some (.lengthMismatch, .payload) else none := by
  rw [payloadChecks, firstFailed_cons, firstFailed_cons]
  simp only [decide_eq_true_eq, ← Nat.not_lt]
  split_ifs <;> rfl

theorem decodePrologue_of_no_header {accepts : Kind → Bool} {kind : Kind} {tlp : List Byte} (hlen : 4 ≤ tlp.length)
    (hkind : accepts kind = true) (hhdr : tlp.length < headerBytes tlp) :
    decodePrologue accepts kind tlp = .error ⟨.malformedHeader, .buffer⟩ := by
  rw [decodePrologue, show decide (Config.minClassifyBytes ≤ tlp.length) = true from decide_eq_true hlen, hkind,
    decide_eq_false (Nat.not_le.2 hhdr)]
  rfl

section ChangedLength

variable {c : Candidate} {tlp tlp' : List Byte} {resp : Response} (hok : decodeBy c tlp = .ok resp)
include hok

/-- Where a decoder succeeds every part of its table passes. -/
theorem parts_of_decodeBy_ok : firstFailed (headChecks (acceptedBytes c) (mbzOf c tlp) tlp) = none ∧
    firstFailed (fieldChecks c tlp) = none ∧ tlp.length = headerSize tlp + payloadNeed c tlp := by
  have hnone := firstFailed_of_reports_ok (hok ▸ reports_decodeBy c tlp)
  obtain ⟨last, hchecks⟩ := checksOf_eq c tlp
  simp only [hchecks, firstFailed_append, Option.or_eq_none_iff, firstFailed_payloadChecks] at hnone
  obtain ⟨hhead, hfields, hpayload, -⟩ := hnone
  refine ⟨hhead, hfields, ?_⟩
  split_ifs at hpayload
  omega

/-- With the whole header the changed buffer passes all checks up to those of its size. -/
theorem decodeBy_of_changed_payload (hsame : SameHeader tlp tlp') (hhdr : headerSize tlp ≤ tlp'.length)
    (hne : tlp'.length ≠ tlp.length) : decodeBy c tlp' = .error ⟨.truncatedBuffer, .payload⟩ ∨
      decodeBy c tlp' = .error ⟨.lengthMismatch, .payload⟩ := by
  obtain ⟨hhead, hfields, hlen⟩ := parts_of_decodeBy_ok hok
  have hmin := twelve_le_headerSize tlp
  have hhead' : firstFailed (headChecks (acceptedBytes c) (mbzOf c tlp') tlp') = none := by
    obtain ⟨-, haccepted, -, hmbz⟩ := headChecks_pass_iff.1 hhead
    refine headChecks_pass_iff.2 ⟨by omega, ?_, ?_, ?_⟩
    · rwa [hsame.byteOf_eq (by decide)]
    · rwa [hsame.headerSize_eq]
    · rwa [hsame.mbzCheck_eq]
  have hfirst : firstFailed (checksOf c tlp') = if tlp'.length < tlp.length then some (.truncatedBuffer, .payload)
      else some (.lengthMismatch, .payload) := by
    obtain ⟨last, hchecks⟩ := checksOf_eq c tlp'
    rw [hchecks, firstFailed_append, firstFailed_append, firstFailed_append, hhead', hsame.fieldChecks_eq, hfields,
      firstFailed_payloadChecks, hsame.payloadNeed_eq, hsame.headerSize_eq, ← hlen]
    split_ifs
    · rfl
    · rfl
    · omega
  have hreports := reports_decodeBy c tlp'
  split_ifs at hfirst
  · exact .inl ((reports_of_failed hfirst).1 hreports)
  · exact .inr ((reports_of_failed hfirst).1 hreports)

/-- Without the whole header the changed buffer is refused for that (45_validation.md R230, R231). -/
theorem decodeBy_of_changed_header (hbyte0 : 4 ≤ tlp'.length → byteOf tlp' 0 = byteOf tlp 0)
    (hshort : tlp'.length < headerSize tlp) : decodeBy c tlp' = .error ⟨.malformedHeader, .buffer⟩ := by
  rcases Nat.lt_or_ge tlp'.length 4 with hlen | hlen
  · exact decodeBy_of_short (Nat.le_of_lt_succ hlen)
  · obtain ⟨-, hkind⟩ := accepted_of_decodeBy_ok hok
    obtain ⟨rest, -, hdecode⟩ := decodeBy_eq_prologue_bind c tlp'
    have hbyte : byteAt tlp' 0 = byteAt tlp 0 := hbyte0 hlen
    have hhdr : tlp'.length < headerBytes tlp' := by
      rwa [headerBytes, hbyte, ← headerBytes, headerBytes_eq_headerSize]
    rw [hdecode, decodePrologue_of_no_header hlen (hbyte ▸ hkind) hhdr, except_error_bind]

end ChangedLength

/-! ## The outcome -/

/-- Two buffers of which one begins the other agree where both have a byte. -/
theorem byteOf_eq_of_begins {tlp tlp' : List Byte} (h : tlp' <+: tlp ∨ tlp <+: tlp') {k : Nat} (hk : k < tlp.length)
    (hk' : k < tlp'.length) : byteOf tlp' k = byteOf tlp k := by
  rcases h with ⟨rest, rfl⟩ | ⟨rest, rfl⟩
  · exact (List.getD_append _ _ _ _ hk').symm
  · exact List.getD_append _ _ _ _ hk

theorem decodeBy_ok_of_succeeds {c : Candidate} {s t : State} {r : RequestFile} {bytes : List Byte}
    (hin : HoldsInput s r bytes) (hs : Succeeds (exec (commandOf c) s) t) : ∃ resp, decodeBy c bytes = .ok resp :=
  exists_ok_of_succeeds (f := decodeBy c) hin (by cases c <;> rfl) (by cases c <;> rfl) (yields_decodeBy c bytes) hs

/-- Settles O55: the header of the changed buffer passes the checks it passed before, if it is whole, and then the size is the
first to fail. -/
theorem changedInputLengthFails : Obligations.ChangedInputLengthFails := by
  intro s t s' r r' bytes bytes' i hi hin hs hin' hne hbegins
  rw [decodeCommands_eq_map] at hi
  obtain ⟨c, -, rfl⟩ := List.mem_map.1 hi
  obtain ⟨resp, hok⟩ := decodeBy_ok_of_succeeds hin hs
  obtain ⟨-, -, hlen⟩ := parts_of_decodeBy_ok hok
  have hraises : ∀ {st f}, decodeBy c bytes' = .error ⟨st, f⟩ → Raises s' (exec (commandOf c) s') st f := fun h =>
    raises_of_deliver (h ▸ exec_commandOf c hin')
  rcases Nat.lt_or_ge bytes'.length (headerSize bytes) with hshort | hhdr
  · have hbyte0 : 4 ≤ bytes'.length → byteOf bytes' 0 = byteOf bytes 0 := fun h =>
      byteOf_eq_of_begins hbegins (by omega) (by omega)
    exact .inr (.inr ⟨hshort, hraises (decodeBy_of_changed_header hok hbyte0 hshort)⟩)
  · have hsame : SameHeader bytes bytes' := fun k hk => byteOf_eq_of_begins hbegins (by omega) (by omega)
    rcases decodeBy_of_changed_payload hok hsame hhdr hne with h | h
    · exact .inl (hraises h)
    · exact .inr (.inl (hraises h))

end Sys2Proof.Proofs
end

section
/-! PROOF. Between operations (60_exceptions.md R264): without a host action the step is the block's own, which waits outside
BUSY. -/

namespace Sys2Proof.Proofs

open Sys2Proof Sys2Proof.Machine Sys2Proof.Safety

/-- Settles O15: neither IDLE nor DONE is BUSY, the one phase in which the block does something of its own. -/
theorem idleAndDoneStay : Obligations.IdleAndDoneStay := by
  intro s hphase hqueue
  have hready : s.phase ≠ .busy := by
    rcases hphase with h | h <;> simp [h]
  calc step s = blockStep s := step_of_no_action hqueue
    _ = .next s := blockStep_of_not_busy hready

end Sys2Proof.Proofs
end

section
/-! PROOF. Reset in any phase (70_reset_and_hazards.md R280), and that the length of the latency does not matter
(70_reset_and_hazards.md R283): it only delays the finish. -/

namespace Sys2Proof.Proofs

open Sys2Proof Sys2Proof.Machine Sys2Proof.Safety

/-! ## Reset -/

theorem step_reset {s : State} {rest : List HostAction} (h : HostNext s .reset rest) :
    step s = .next { State.reset with hostQueue := rest, readData := s.readData } := step_of_hostNext h

/-- Settles O6: the next state takes nothing from `s` but the host's own fields, and the rest is the state after reset. -/
theorem resetInAnyPhase : Obligations.ResetInAnyPhase := by
  intro s rest hnext
  obtain ⟨hphase, -, hcaptured, hresp, hreq⟩ := resetState
  exact ⟨_, step_reset hnext, hphase, hresp, hcaptured, hreq, rfl, rfl⟩

/-! ## The latency -/

/-- All steps of the latency but the last count down to the state that finishes next, the same for every latency. -/
theorem runSteps_latency {s : State} {n : Nat} (hq : s.hostQueue = []) (hp : s.phase = .busy) (hn : 1 ≤ n) :
    runSteps n { s with remaining := n } = runSteps 1 { s with remaining := 1 } := by
  obtain ⟨k, rfl⟩ : ∃ k, n = k + 1 := ⟨n - 1, by omega⟩
  have hcount : runSteps k { s with remaining := k + 1 } = .next { s with remaining := k + 1 - k } :=
    runSteps_alone (s := { s with remaining := k + 1 }) hq hp (Nat.lt_succ_self k)
  rw [runSteps_add k 1 hcount, Nat.add_sub_cancel_left]

/-- Settles O20: both runs come to the finish of one and the same state, whatever the outcome of the finish. -/
theorem latencyDoesNotMatter : Obligations.LatencyDoesNotMatter := by
  intro s m n hq hp hm hn
  calc runSteps m { s with remaining := m }
    _ = runSteps 1 { s with remaining := 1 } := runSteps_latency hq hp hm
    _ = runSteps n { s with remaining := n } := (runSteps_latency hq hp hn).symm

end Sys2Proof.Proofs
end
